-- ==== Sys2Proof/Word.lean ====
section
/-! DEFINITION. The word types of the slot core (spec/00_scope.md R12, R14): every register and port value is an
unsigned integer of the width its declaration states. -/

namespace Sys2Proof

/-- A command word, a CRC value or a ROM entry: 16 bits (00_scope.md R12, `CMD_W`, `CRC_W`, `ROM_W`). -/
abbrev Word := BitVec 16

/-- A key byte or a ROM index: 8 bits (00_scope.md R12, `BYTE_W`). -/
abbrev Byte := BitVec 8

/-- A slot number or a value of the `rnd` port: 14 bits (00_scope.md R12, `SLOT_W`, `ENTROPY_W`). -/
abbrev SlotNo := BitVec 14

end Sys2Proof
end

