-- ==== Sys2Proof/Assembly.lean ====
section
/-! DEFINITION. The lines of the assembly language (spec/30_encoding.md R70, R71), as syntax: the five commands with
their operands as the number a line spells, the pseudo-instructions KEY and SLOT, and the raw word. -/

namespace Sys2Proof

/-- One source line of 30_encoding.md R70 and R71. An operand is the number the line spells, before any range check:
a value outside 0 to 255 is an assembly error, not a wrapped value. -/
inductive SourceLine
  /-- A line with nothing but blanks or a comment. -/
  | blank
  | nop
  | start
  | byte (n : Nat)
  | endKey
  | romrd (n : Nat)
  /-- `KEY "<string>"`: one BYTE per byte of the string. -/
  | key (s : List Byte)
  /-- `SLOT "<string>"`: START, then the string's bytes, then END. -/
  | slot (s : List Byte)
  /-- `.word 0xNNNN`: a raw 16-bit word. -/
  | word (n : Nat)
deriving DecidableEq, Repr

end Sys2Proof
end

