-- ==== Sys2Proof/Syntax.lean ====
section
/-! DEFINITION. The command set (spec/30_encoding.md R65, spec/opcode_table.json): one constructor per row. -/

namespace Sys2Proof

/-- A command of the slot core. The operand of BYTE and of ROMRD is the unsigned 8-bit `IMM8` (30_encoding.md R64). -/
inductive Instr
  /-- `NOP`: do nothing (43_control.md R98). -/
  | nop
  /-- `START`: begin a new key (43_control.md R99). -/
  | start
  /-- `BYTE b`: append the byte `b` to the key (41_hash_tag_extractor.md R86). -/
  | byte (b : Byte)
  /-- `END`: resolve the slot of the key so far (42_slot_resolver.md R94). -/
  | endKey
  /-- `ROMRD i`: read ROM entry `i` into `ROM_DATA` (40_crc_engine.md R78). -/
  | romrd (i : Byte)
deriving DecidableEq, Repr

end Sys2Proof
end

