-- ==== Sys2Proof/WellFormed.lean ====
section
/-! DEFINITION. Well-formedness. A decoded command's operand has its 8 bits by type, so every `Instr` is well formed;
what can be ill formed is a source line, whose operand is a number (spec/30_encoding.md R70). -/

namespace Sys2Proof

/-- Every command is well formed: the only operand, `IMM8`, is an 8-bit value by type (30_encoding.md R64). One arm per
constructor, so that a new command cannot slip past. -/
def Instr.wellFormed : Instr → Bool
  | .nop => true
  | .start => true
  | .byte _ => true
  | .endKey => true
  | .romrd _ => true

/-- The operand ranges of 30_encoding.md R70: a byte operand or ROM index is 0 to 255, a raw word 0 to 0xFFFF. -/
def SourceLine.wellFormed : SourceLine → Bool
  | .blank => true
  | .nop => true
  | .start => true
  | .byte n => decide (n ≤ 255)
  | .endKey => true
  | .romrd n => decide (n ≤ 255)
  | .key _ => true
  | .slot _ => true
  | .word n => decide (n ≤ 0xFFFF)

end Sys2Proof
end

