-- ==== Sys2Proof/Decode.lean ====
section
/-! DEFINITION. Decoding a 16-bit command word (spec/30_encoding.md R63, R66), total on all words and rejecting by the
class of R67, and after it the encoder, written from the same opcode map (R65). -/

namespace Sys2Proof

/-- Why a word spells no command: the three classes of illegal words of 30_encoding.md R67. All three behave alike
(60_exceptions.md R107), and no register records the class. -/
inductive IllegalWord
  /-- Class (a): `RSV` is not zero. -/
  | reservedBits
  /-- Class (b): `RSV = 0` and `OP` is 0x5 to 0xF. -/
  | reservedOpcode
  /-- Class (c): `RSV = 0`, `OP` is NOP, START or END, and `IMM8` is not zero. -/
  | operandNotZero
deriving DecidableEq, Repr

/-- `OP = w[15:12]` (30_encoding.md R63). -/
def fieldOp (w : Word) : BitVec 4 := w.extractLsb' 12 4

/-- `RSV = w[11:8]` (30_encoding.md R63). -/
def fieldRsv (w : Word) : BitVec 4 := w.extractLsb' 8 4

/-- `IMM8 = w[7:0]` (30_encoding.md R63, R64). -/
def fieldImm8 (w : Word) : Byte := w.extractLsb' 0 8

/-- `Decode(w)` of 30_encoding.md R66; `ILLEGAL` is an error with the word's class. -/
def decode (w : Word) : Except IllegalWord Instr :=
  if fieldRsv w ≠ 0#4 then .error .reservedBits
  else if fieldOp w = 0x0#4 then
    if fieldImm8 w = 0#8 then .ok .nop else .error .operandNotZero
  else if fieldOp w = 0x1#4 then
    if fieldImm8 w = 0#8 then .ok .start else .error .operandNotZero
  else if fieldOp w = 0x2#4 then .ok (.byte (fieldImm8 w))
  else if fieldOp w = 0x3#4 then
    if fieldImm8 w = 0#8 then .ok .endKey else .error .operandNotZero
  else if fieldOp w = 0x4#4 then .ok (.romrd (fieldImm8 w))
  else .error .reservedOpcode

/-- The host's reading of an opcode-table row: every command is one 16-bit word presented whole (30_encoding.md R63,
R69), so a number of more than 16 bits is no command. -/
def decodeTableWord (_nbits w : Nat) : Option Instr :=
  if w < 65536 then
    match decode (BitVec.ofNat 16 w) with
    | .ok i => some i
    | .error _ => none
  else none

/-- A word from its three fields: `OP` in bits 15:12, `RSV` zero in bits 11:8, `IMM8` in bits 7:0 (30_encoding.md
R63). -/
def packWord (op : BitVec 4) (imm8 : Byte) : Word := op ++ 0#4 ++ imm8

/-- The one word that spells a command (30_encoding.md R65). -/
def encode : Instr → Word
  | .nop => packWord 0x0#4 0#8
  | .start => packWord 0x1#4 0#8
  | .byte b => packWord 0x2#4 b
  | .endKey => packWord 0x3#4 0#8
  | .romrd i => packWord 0x4#4 i

/-- The `match` column of 30_encoding.md R65 for the command's row. -/
def rowMatch : Instr → Word
  | .nop => 0x0000#16
  | .start => 0x1000#16
  | .byte _ => 0x2000#16
  | .endKey => 0x3000#16
  | .romrd _ => 0x4000#16

/-- The `mask` column of 30_encoding.md R65 for the command's row. -/
def rowMask : Instr → Word
  | .nop => 0xFFFF#16
  | .start => 0xFFFF#16
  | .byte _ => 0xFF00#16
  | .endKey => 0xFFFF#16
  | .romrd _ => 0xFF00#16

/-- The word spells a command (30_encoding.md R65). -/
def legalWord (w : Word) : Bool :=
  match decode w with
  | .ok _ => true
  | .error _ => false

end Sys2Proof
end

