-- ==== Sys2Proof/Machine/Params.lean ====
section
/-! DEFINITION. The fixed parameters of the algorithm (spec/00_scope.md R3, R12). -/

namespace Sys2Proof.Machine

/-- `POLY` (00_scope.md R3, R12). -/
def poly : Word := 0x1021#16

/-- `CRC_INIT` (00_scope.md R3, R12). -/
def crcInit : Word := 0x0000#16

/-- `SLOT_COUNT` (00_scope.md R12). -/
def slotCount : Nat := 16384

/-- `OPEN_BRACE`, byte 0x7B (00_scope.md R12, 41_hash_tag_extractor.md R79). -/
def openBrace : Byte := 0x7B#8

/-- `CLOSE_BRACE`, byte 0x7D (00_scope.md R12, 41_hash_tag_extractor.md R79). -/
def closeBrace : Byte := 0x7D#8

end Sys2Proof.Machine
end

