-- ==== Sys2Proof/Machine/Crc.lean ====
section
/-! DEFINITION. The CRC16 engine (spec/40_crc_engine.md R72, R74): the ROM and the byte update. -/

namespace Sys2Proof.Machine

/-- One shift step of the MSB-first CRC register: shift left by one, and exclusive-or the polynomial in where the bit
shifted out was 1 (40_crc_engine.md R72). -/
def crcShift (r : Word) : Word :=
  if r.msb then (r <<< 1) ^^^ poly else r <<< 1

/-- Eight shift steps, one per bit of a byte (40_crc_engine.md R72, R76). -/
def crcShift8 (r : Word) : Word :=
  crcShift (crcShift (crcShift (crcShift (crcShift (crcShift (crcShift (crcShift r)))))))

/-- `RomGen(i)`: byte `i` in the high half of a zero register, shifted eight times (40_crc_engine.md R72). -/
def romGen (i : Byte) : Word := crcShift8 (i ++ 0x00#8)

/-- `ROM[i]`, the block's only memory read (00_scope.md R17, 20_memory.md R47). The contents are constant and are
those of 40_crc_engine.md R72; the statement RomHoldsTheListedEntries compares them with the table of R73. -/
def rom (i : Byte) : Word := romGen i

/-- `v[15:8]` of a 16-bit value. -/
def highByte (c : Word) : Byte := c.extractLsb' 8 8

/-- `v[7:0]` of a 16-bit value. -/
def lowByte (c : Word) : Byte := c.extractLsb' 0 8

/-- `crc_upd(c, b) = ROM[c[15:8] ^ b] ^ (c[7:0], 0x00)` (40_crc_engine.md R74). -/
def crcUpd (c : Word) (b : Byte) : Word :=
  rom (highByte c ^^^ b) ^^^ (lowByte c ++ 0x00#8)

/-- `trunc_14`: the reduction modulo 16384 (42_slot_resolver.md R90). -/
def slotOfCrc (c : Word) : SlotNo := c.extractLsb' 0 14

end Sys2Proof.Machine
end

