-- ==== Sys2Proof/Config.lean ====
section
/-! DEFINITION. What a build fixes and what nobody fixes: the default of the open width `LEN_W` and the free value on
the entropy port. The algorithm's constants (polynomial, brace bytes) are in Machine/Params.lean. -/

namespace Sys2Proof

/-- The default of `LEN_W`, the width of the length and position registers (00_scope.md R12). Any integer at least 1
is a legal build; the build's own value is the field `lenW` of the state (log 1). -/
def Config.lenWDefault : Nat := 32

/-- FREE VALUE (42_slot_resolver.md R91, 93_implementation_defined.md U1): the `n`-th value the entropy source offers
on `rnd`. It has no body, so nothing can be proved about it beyond its width (log 3). -/
opaque Config.freshRnd : Nat → SlotNo

end Sys2Proof
end

