-- ==== Sys2Proof/Machine/State.lean ====
section
/-! DEFINITION. The state of the slot core (spec/10_state.md R26): the sixteen registers, and beside them the model's
own fields (the build's LEN_W, the entropy port, the input edges). Plain data. -/

namespace Sys2Proof.Machine

/-- The scan state of the hash-tag extractor (10_state.md R29). Every value of the 2-bit field is used, so the four
names are the whole register; the codes are in `TState.code` (Machine/Flags.lean). -/
inductive TState
  /-- `SCAN` (0): no open brace seen yet in the key. -/
  | scan
  /-- `OPEN` (1): the first open brace has been seen and no close brace after it yet. -/
  | opened
  /-- `TAG` (2): the first close brace after the first open brace has been seen, with at least one byte between. -/
  | tag
  /-- `NOTAG` (3): that close brace came immediately after the open brace. -/
  | noTag
deriving DecidableEq, Repr

/-- What the input ports show at one rising edge of `clk` (10_state.md R21), and whether the build is ready at that
edge (R44, the open parameter READY_LATENCY: the bit is the build's free choice, log 4). -/
structure Edge where
  /-- `rst_n`: false is reset (70_reset_and_hazards.md R120). -/
  rstN : Bool
  /-- `cmd_valid`: the host presents a word on `cmd`. -/
  cmdValid : Bool
  /-- `cmd`: the command word. -/
  cmd : Word
  /-- `rnd`: the entropy input, any value (42_slot_resolver.md R91, R92). -/
  rnd : SlotNo
  /-- The build holds `cmd_ready` at 1 outside reset. -/
  ready : Bool
deriving DecidableEq, Repr

/-- The state. The first sixteen fields are the complete register set of 10_state.md R26; the last four are the
model's own. The fields of width LEN_W are natural numbers that every step keeps at most `2 ^ lenW - 1` (log 5). -/
structure State where
  /-- `CRC_KEY` (10_state.md R27). -/
  crcKey : Word
  /-- `CRC_TAG`, hidden (10_state.md R28, R41). -/
  crcTag : Word
  /-- `TSTATE` (10_state.md R29). -/
  tState : TState
  /-- `KEY_LEN`, LEN_W bits, saturating (10_state.md R30). -/
  keyLen : Nat
  /-- `TAG_OPEN`, LEN_W bits, hidden (10_state.md R30, R41). -/
  tagOpen : Nat
  /-- `TAG_LEN`, LEN_W bits, saturating, hidden (10_state.md R30, R41). -/
  tagLen : Nat
  /-- `LEN_SAT` (10_state.md R37). -/
  lenSat : Bool
  /-- `DONE` (10_state.md R34). -/
  done : Bool
  /-- `SLOT` (10_state.md R32). -/
  slot : SlotNo
  /-- `CRC_EFF` (10_state.md R32). -/
  crcEff : Word
  /-- `EFF_START`, LEN_W bits (10_state.md R32). -/
  effStart : Nat
  /-- `EFF_LEN`, LEN_W bits (10_state.md R32). -/
  effLen : Nat
  /-- `TAGGED` (10_state.md R35). -/
  tagged : Bool
  /-- `RANDOM` (10_state.md R36). -/
  random : Bool
  /-- `ROM_DATA` (10_state.md R39). -/
  romData : Word
  /-- `ILL`, sticky (10_state.md R38). -/
  ill : Bool
  /-- Model's own: the build's `LEN_W` (00_scope.md R12; log 1). No step changes it. -/
  lenW : Nat
  /-- Model's own: the value on the `rnd` port at the acceptance edge of the command being executed (log 3). -/
  rnd : SlotNo
  /-- Model's own: how many values of `rnd` the block has consumed (10_state.md R43, 20_memory.md R55; log 3). -/
  draws : Nat
  /-- Model's own: what the ports will show at the coming rising edges, the next one first (log 2). -/
  edges : List Edge
deriving DecidableEq, Repr

/-- The reasons a step can stop with a fault. There are none: no computation of the block can fail, and the one
exception, an illegal word, sets `ILL` and goes on (60_exceptions.md R105, R107). -/
inductive Fault
deriving DecidableEq, Repr

/-- The reasons a step can be refused. -/
inductive Refusal
  /-- An instruction without a meaning: raised by an arm of `exec` that has none. No arm of this model raises it.
  Safe: the model would stop where the hardware goes on. -/
  | notModelled (mnemonic : String)
deriving DecidableEq, Repr

/-- The outcome of a step of this machine. -/
abbrev Outcome := Host.Outcome State Fault Refusal

/-- The state right after reset of a build with the given LEN_W: every register 0 and `TSTATE = SCAN` (10_state.md
R26, R45; 70_reset_and_hazards.md R120). The model's own fields: no value of `rnd` consumed yet, the port showing the
free value number 0 (log 3), and no edge listed (log 2). -/
def State.resetBuild (lenW : Nat) : State where
  crcKey := 0x0000#16
  crcTag := 0x0000#16
  tState := .scan
  keyLen := 0
  tagOpen := 0
  tagLen := 0
  lenSat := false
  done := false
  slot := 0x0000#14
  crcEff := 0x0000#16
  effStart := 0
  effLen := 0
  tagged := false
  random := false
  romData := 0x0000#16
  ill := false
  lenW := lenW
  rnd := Config.freshRnd 0
  draws := 0
  edges := []

/-- The machine right after reset, with the spec's default LEN_W of 32 (00_scope.md R12; log 1). -/
def State.reset : State := State.resetBuild Config.lenWDefault

end Sys2Proof.Machine
end

