-- ==== Sys2Proof/Machine/Flags.lean ====
section
/-! DEFINITION. Saturation and the status flags: the LEN_SAT rule of BYTE, the code of TSTATE, and the STATUS view
(spec/00_scope.md R15, spec/10_state.md R29, R33, R37). -/

namespace Sys2Proof.Machine

/-- `SATMAX = 2^LEN_W - 1` (00_scope.md R15). -/
def satMax (lenW : Nat) : Nat := 2 ^ lenW - 1

/-- `sat_N(v) = min(v, 2^N - 1)` (00_scope.md R15). -/
def sat (lenW v : Nat) : Nat := min v (satMax lenW)

/-- LEN_SAT after a BYTE: set when KEY_LEN was already SATMAX, otherwise as it was (10_state.md R37,
41_hash_tag_extractor.md R86). -/
def lenSatAfterByte (s : State) : Bool := if s.keyLen = satMax s.lenW then true else s.lenSat

/-- The 2-bit code of the scan state (10_state.md R29). -/
def TState.code : TState → BitVec 2
  | .scan => 0#2
  | .opened => 1#2
  | .tag => 2#2
  | .noTag => 3#2

/-- `STATUS[7:0]`, assembled from the registers, with no storage of its own; bit 7 is hardwired 0 (10_state.md
R33). -/
def status (s : State) : BitVec 8 :=
  0#1 ++ s.tState.code ++ BitVec.ofBool s.ill ++ BitVec.ofBool s.lenSat ++ BitVec.ofBool s.random
    ++ BitVec.ofBool s.tagged ++ BitVec.ofBool s.done

end Sys2Proof.Machine
end

