-- ==== Sys2Proof/Machine/Ops.lean ====
section
/-! DEFINITION. The named operations over the registers: clearing the accumulators, writing the result group, reset,
the one exception, taking a draw from the entropy port, and presenting a word on the command port. -/

namespace Sys2Proof.Machine

/-- The accumulator group and DONE take the values START writes (43_control.md R99). -/
def clearAccumulators (s : State) : State :=
  { s with
    crcKey := crcInit
    crcTag := crcInit
    tState := .scan
    keyLen := 0
    tagOpen := 0
    tagLen := 0
    lenSat := false
    done := false }

/-- The result group, written together by END, with DONE set (10_state.md R32, R34; 42_slot_resolver.md R94). -/
def writeResult (slot : SlotNo) (crcEff : Word) (effStart effLen : Nat) (tagged random : Bool) (s : State) : State :=
  { s with
    slot := slot
    crcEff := crcEff
    effStart := effStart
    effLen := effLen
    tagged := tagged
    random := random
    done := true }

/-- The ROM read register (10_state.md R39). -/
def writeRomData (v : Word) (s : State) : State := { s with romData := v }

/-- Reset: every register of 10_state.md R26 takes its reset value (70_reset_and_hazards.md R120). What is not a
register of the block stays: the build's LEN_W and what the environment shows on the ports. -/
def resetRegisters (s : State) : State :=
  { s with
    crcKey := 0x0000#16
    crcTag := 0x0000#16
    tState := .scan
    keyLen := 0
    tagOpen := 0
    tagLen := 0
    lenSat := false
    done := false
    slot := 0x0000#14
    crcEff := 0x0000#16
    effStart := 0
    effLen := 0
    tagged := false
    random := false
    romData := 0x0000#16
    ill := false }

/-- `raise IllegalCommand(w)`, the block's one exception: `ILL <- 1` and nothing else. There is no trap: nothing is
saved or redirected, the word is not recorded, the block goes on, and only reset undoes it (60_exceptions.md R106,
R107, R111, R112). -/
def raiseIllegalCommand (s : State) : State := { s with ill := true }

/-- The environment's side of a draw: the value on `rnd` has been consumed, and what the entropy source shows next is
a fresh free value (42_slot_resolver.md R91, R92, R93(c); log 3). -/
def consumeDraw (s : State) : State :=
  { s with rnd := Config.freshRnd (s.draws + 1), draws := s.draws + 1 }

/-- An edge at which the host presents the word `w`, outside reset, and the build is ready. -/
def presentingEdge (w : Word) (r : SlotNo) : Edge :=
  { rstN := true, cmdValid := true, cmd := w, rnd := r, ready := true }

/-- The state in which the next edge presents the word `w`, ahead of the edges already listed, with the entropy port
showing what it shows (log 2). -/
def presentWord (w : Word) (s : State) : State :=
  { s with edges := presentingEdge w s.rnd :: s.edges }

end Sys2Proof.Machine
end

