-- ==== Sys2Proof/Machine/Control.lean ====
section
/-! DEFINITION. The control commands NOP and START (spec/43_control.md R98, R99). -/

namespace Sys2Proof.Machine

/-- `NOP`: no register is written (43_control.md R98). -/
def execNop (s : State) : Outcome := .next s

/-- `START`: begin a new key; the result registers, ROM_DATA and ILL keep their values (43_control.md R99). -/
def execStart (s : State) : Outcome := .next (clearAccumulators s)

end Sys2Proof.Machine
end

