-- ==== Sys2Proof/Machine/Operands.lean ====
section
/-! DEFINITION. The operand forms (spec/30_encoding.md R64): the one operand is `IMM8`, used unchanged. -/

namespace Sys2Proof.Machine

/-- BYTE uses `IMM8` unchanged as the key byte (30_encoding.md R64). -/
def keyByte (imm8 : Byte) : Byte := imm8

/-- ROMRD uses `IMM8` unchanged as the ROM index (30_encoding.md R64). -/
def romIndex (imm8 : Byte) : Byte := imm8

end Sys2Proof.Machine
end

