-- ==== Sys2Proof/Machine/Extractor.lean ====
section
/-! DEFINITION. The hash-tag extractor's transition on one key byte and the command BYTE
(spec/41_hash_tag_extractor.md R85, R86). -/

namespace Sys2Proof.Machine

/-- The extractor part of BYTE: the transition table of 41_hash_tag_extractor.md R85. It writes TSTATE, TAG_OPEN,
CRC_TAG and TAG_LEN and reads KEY_LEN as it was before the byte. -/
def scanByte (b : Byte) (s : State) : State :=
  match s.tState with
  | .scan => if b = openBrace then { s with tState := .opened, tagOpen := s.keyLen } else s
  | .opened =>
    if b = closeBrace then { s with tState := if s.tagLen = 0 then .noTag else .tag }
    else { s with crcTag := crcUpd s.crcTag b, tagLen := sat s.lenW (s.tagLen + 1) }
  | .tag => s
  | .noTag => s

/-- `BYTE b`: append the byte to the key. All reads see the values from before the command (41_hash_tag_extractor.md
R86, 00_scope.md R17). -/
def execByte (imm8 : Byte) (s : State) : Outcome :=
  .next { scanByte (keyByte imm8) s with
    crcKey := crcUpd s.crcKey (keyByte imm8)
    lenSat := lenSatAfterByte s
    keyLen := sat s.lenW (s.keyLen + 1)
    done := false }

end Sys2Proof.Machine
end

