-- ==== Sys2Proof/Machine/Resolver.lean ====
section
/-! DEFINITION. The slot resolver: the command END (spec/42_slot_resolver.md R94). -/

namespace Sys2Proof.Machine

/-- The draw on the empty key: SLOT is the value on `rnd`, the rest describes the empty range, and the value is
consumed (42_slot_resolver.md R91, R92, R94, R95). -/
def resolveEmpty (s : State) : State :=
  consumeDraw (writeResult s.rnd crcInit 0 0 false true s)

/-- A valid hash tag: the tag's checksum and range (42_slot_resolver.md R94). -/
def resolveTag (s : State) : State :=
  writeResult (slotOfCrc s.crcTag) s.crcTag (sat s.lenW (s.tagOpen + 1)) s.tagLen true false s

/-- No tag: the whole key (42_slot_resolver.md R94, the states SCAN, OPEN and NOTAG). -/
def resolveWhole (s : State) : State :=
  writeResult (slotOfCrc s.crcKey) s.crcKey 0 s.keyLen false false s

/-- `END`: the three-way choice of 42_slot_resolver.md R94. The accumulators are not written. -/
def execEndKey (s : State) : Outcome :=
  .next (if s.keyLen = 0 then resolveEmpty s
    else match s.tState with
      | .tag => resolveTag s
      | .scan => resolveWhole s
      | .opened => resolveWhole s
      | .noTag => resolveWhole s)

end Sys2Proof.Machine
end

