-- ==== Sys2Proof/Machine/RomRead.lean ====
section
/-! DEFINITION. The command ROMRD (spec/40_crc_engine.md R78). -/

namespace Sys2Proof.Machine

/-- `ROMRD i`: `ROM_DATA <- ROM[i]`, and nothing else (40_crc_engine.md R78). -/
def execRomrd (imm8 : Byte) (s : State) : Outcome := .next (writeRomData (rom (romIndex imm8)) s)

end Sys2Proof.Machine
end

