-- ==== Sys2Proof/Machine/Dispatch.lean ====
section
/-! DEFINITION. The dispatch: one arm per command of spec/opcode_table.json, each a direct call of its meaning. -/

namespace Sys2Proof.Machine

def exec (i : Instr) (s : State) : Host.Outcome State Fault Refusal :=
  match i with
  | .nop => Sys2Proof.Machine.execNop s
  | .start => Sys2Proof.Machine.execStart s
  | .byte b => Sys2Proof.Machine.execByte b s
  | .endKey => Sys2Proof.Machine.execEndKey s
  | .romrd n => Sys2Proof.Machine.execRomrd n s

end Sys2Proof.Machine
end

