-- ==== Sys2Proof/Machine/Clock.lean ====
section
/-! DEFINITION. One rising edge of the clock (spec/43_control.md R100, spec/10_state.md R22, spec/60_exceptions.md
R110), and sequences of accepted words. -/

namespace Sys2Proof.Machine

/-- `cmd_ready` at an edge: 0 in reset, otherwise the build's choice (10_state.md R44). -/
def Edge.cmdReady (e : Edge) : Bool := e.rstN && e.ready

/-- The word on `cmd` is accepted at the edge (10_state.md R22). -/
def Edge.accepts (e : Edge) : Bool := e.rstN && e.cmdValid && e.cmdReady

/-- `Step(S, w, r)` of 43_control.md R100: the accepted word `w` runs the command it spells, with `r` on the `rnd`
port, or raises IllegalCommand. -/
def acceptWord (w : Word) (r : SlotNo) (s : State) : Outcome :=
  match decode w with
  | .ok i => exec i { s with rnd := r }
  | .error _ => .next (raiseIllegalCommand { s with rnd := r })

/-- What one rising edge does, tested in the order of 60_exceptions.md R110: reset, then acceptance of one word, then
nothing (43_control.md R100). -/
def clockEdge (e : Edge) (s : State) : Outcome :=
  if e.rstN = false then .next (resetRegisters s)
  else if e.accepts then acceptWord e.cmd e.rnd s
  else .next s

/-- The next listed edge happens. Where none is listed, the edge is one at which nothing is presented and nothing is
reset, so the state stays (60_exceptions.md R119; log 2). -/
def nextEdge (s : State) : Outcome :=
  match s.edges with
  | [] => .next s
  | e :: rest => clockEdge e { s with edges := rest }

/-- A sequence of accepted words, each with the value on `rnd` at its edge, in acceptance order (20_memory.md R58). -/
def runAccepted : List (Word × SlotNo) → State → Outcome
  | [], s => .next s
  | p :: ps, s =>
    match acceptWord p.1 p.2 s with
    | .next t => runAccepted ps t
    | .fault f => .fault f
    | .refused r => .refused r

end Sys2Proof.Machine
end

