-- ==== Sys2Proof/Machine/Step.lean ====
section
/-! DEFINITION. The step: one rising edge of `clk`. What it does is in Machine/Clock.lean. -/

namespace Sys2Proof.Machine

/-- One rising edge of `clk` (43_control.md R100). -/
def step (s : State) : Host.Outcome State Fault Refusal := nextEdge s

/-- The state whose next edge presents the word `w`: a command word is not fetched from anywhere but presented by the
host on `cmd` (10_state.md R22, R25; log 2). -/
def State.withFetchWord (s : State) (_nbits w : Nat) : State := presentWord (BitVec.ofNat 16 w) s

end Sys2Proof.Machine
end

