-- ==== Sys2Proof/Machine/Assembler.lean ====
section
/-! DEFINITION. The assembler and the disassembler (spec/30_encoding.md R70, R71). A source line is a list of
characters; a string stands for its ASCII bytes (spec/00_scope.md R16). What the text leaves open is in log 8. -/

namespace Sys2Proof.Machine

/-- Why a line does not assemble. -/
inductive AsmError
  /-- The line has none of the forms of 30_encoding.md R70 and R71. -/
  | badLine
  /-- The operand is outside its range: an assembly error, not a wrapped value (30_encoding.md R70). -/
  | outOfRange
deriving DecidableEq, Repr

/-! ### From a line's syntax to words -/

/-- `KEY "<string>"`: one BYTE per byte of the string, in order (30_encoding.md R71). -/
def keyWords (s : List Byte) : List Word := s.map (fun b => encode (.byte b))

/-- `SLOT "<string>"`: START, the string's bytes, END (30_encoding.md R71). -/
def slotWords (s : List Byte) : List Word := encode .start :: (keyWords s ++ [encode .endKey])

/-- The words of a well-formed line (30_encoding.md R70, R71). -/
def expandLine : SourceLine → List Word
  | .blank => []
  | .nop => [encode .nop]
  | .start => [encode .start]
  | .byte n => [encode (.byte (BitVec.ofNat 8 n))]
  | .endKey => [encode .endKey]
  | .romrd n => [encode (.romrd (BitVec.ofNat 8 n))]
  | .key s => keyWords s
  | .slot s => slotWords s
  | .word n => [BitVec.ofNat 16 n]

/-- A line's words, or an assembly error for an operand out of range (30_encoding.md R70). -/
def assembleLine (l : SourceLine) : Except AsmError (List Word) :=
  if l.wellFormed then .ok (expandLine l) else .error .outOfRange

/-! ### From text to a line's syntax -/

/-- A blank or a tab. -/
def isBlankChar (c : Char) : Bool := decide (c = ' ') || decide (c = '\t')

/-- The text after its leading blanks. -/
def skipBlanks : List Char → List Char
  | [] => []
  | c :: cs => if isBlankChar c then skipBlanks cs else c :: cs

/-- Nothing is left of the line but blanks and a comment, which `;` starts (30_encoding.md R70). -/
def atLineEnd (cs : List Char) : Bool :=
  match skipBlanks cs with
  | [] => true
  | c :: _ => decide (c = ';')

/-- An ASCII letter in upper case; any other character as it is. -/
def upperChar (c : Char) : Char :=
  if 'a'.toNat ≤ c.toNat ∧ c.toNat ≤ 'z'.toNat then Char.ofNat (c.toNat - 32) else c

/-- The mnemonic at the head of the text, in upper case, and the text after it. It ends at a blank or a comment. -/
def takeMnemonic : List Char → List Char × List Char
  | [] => ([], [])
  | c :: cs =>
    if isBlankChar c || decide (c = ';') then ([], c :: cs)
    else (upperChar c :: (takeMnemonic cs).1, (takeMnemonic cs).2)

/-- The value of a decimal digit. -/
def decDigit (c : Char) : Option Nat :=
  if '0'.toNat ≤ c.toNat ∧ c.toNat ≤ '9'.toNat then some (c.toNat - '0'.toNat) else none

/-- The value of a hexadecimal digit, in upper or lower case. -/
def hexDigit (c : Char) : Option Nat :=
  if 'A'.toNat ≤ (upperChar c).toNat ∧ (upperChar c).toNat ≤ 'F'.toNat then
    some ((upperChar c).toNat - 'A'.toNat + 10)
  else decDigit c

/-- The number the digits at the head of the text spell, after `acc`, and the text after them. -/
def readDigits (base : Nat) (digit : Char → Option Nat) : Nat → List Char → Nat × List Char
  | acc, [] => (acc, [])
  | acc, c :: cs =>
    match digit c with
    | some d => readDigits base digit (acc * base + d) cs
    | none => (acc, c :: cs)

/-- A number with at least one digit. -/
def readNumber (base : Nat) (digit : Char → Option Nat) (cs : List Char) : Option (Nat × List Char) :=
  match cs with
  | [] => none
  | c :: _ =>
    match digit c with
    | some _ => some (readDigits base digit 0 cs)
    | none => none

/-- The ASCII code of a character. -/
def asciiCode (c : Char) : Option Nat := if c.toNat < 128 then some c.toNat else none

/-- The byte of the two hexadecimal digits of `\xNN`. -/
def hexPair (h l : Char) : Option Nat :=
  match hexDigit h, hexDigit l with
  | some a, some b => some (a * 16 + b)
  | _, _ => none

/-- The operand of BYTE, ROMRD and .word: hexadecimal, a character literal (its ASCII code), the literal of `\xNN`, or
decimal (30_encoding.md R70); with the text after it. DESIGN CHOICE (log 8), where the rule is silent: a literal of `\x`
without two hexadecimal digits, or of a character that is not ASCII, has no reading, so the line is refused. -/
def readOperand : List Char → Option (Nat × List Char)
  | '\'' :: '\\' :: 'x' :: h :: l :: '\'' :: rest => (hexPair h l).map (fun n => (n, rest))
  | '\'' :: c :: '\'' :: rest => (asciiCode c).map (fun n => (n, rest))
  | '0' :: 'x' :: rest => readNumber 16 hexDigit rest
  | '0' :: 'X' :: rest => readNumber 16 hexDigit rest
  | cs => readNumber 10 decDigit cs

/-- The bytes of a string literal after its opening quote, and the text after its closing quote. `\xNN` is the byte
0xNN, any other character its ASCII code (00_scope.md R16). DESIGN CHOICE (log 8), where the rules are silent: a `\x` not
followed by two hexadecimal digits has no reading, so the line is refused; a backslash before anything but `x` is an
ordinary character; a character that is not ASCII, or a missing closing quote, refuses the line. -/
def readString : List Char → Option (List Byte × List Char)
  | [] => none
  | '"' :: rest => some ([], rest)
  | '\\' :: 'x' :: h :: l :: rest =>
    match hexPair h l, readString rest with
    | some n, some (s, after) => some (BitVec.ofNat 8 n :: s, after)
    | _, _ => none
  | '\\' :: 'x' :: _ => none
  | c :: rest =>
    match asciiCode c, readString rest with
    | some n, some (s, after) => some (BitVec.ofNat 8 n :: s, after)
    | _, _ => none

/-- A line with a number operand. -/
def operandLine (make : Nat → SourceLine) (cs : List Char) : Option SourceLine :=
  match readOperand (skipBlanks cs) with
  | some (n, rest) => if atLineEnd rest then some (make n) else none
  | none => none

/-- A line with a string operand. -/
def stringLine (make : List Byte → SourceLine) (cs : List Char) : Option SourceLine :=
  match skipBlanks cs with
  | '"' :: cs' =>
    match readString cs' with
    | some (s, rest) => if atLineEnd rest then some (make s) else none
    | none => none
  | _ => none

/-- A line with no operand. -/
def plainLine (l : SourceLine) (cs : List Char) : Option SourceLine := if atLineEnd cs then some l else none

/-- One source line (30_encoding.md R70, R71). -/
def parseLine (cs : List Char) : Option SourceLine :=
  if atLineEnd cs then some .blank
  else
    match takeMnemonic (skipBlanks cs) with
    | (m, rest) =>
      if m = "NOP".toList then plainLine .nop rest
      else if m = "START".toList then plainLine .start rest
      else if m = "END".toList then plainLine .endKey rest
      else if m = "BYTE".toList then operandLine .byte rest
      else if m = "ROMRD".toList then operandLine .romrd rest
      else if m = ".WORD".toList then operandLine .word rest
      else if m = "KEY".toList then stringLine .key rest
      else if m = "SLOT".toList then stringLine .slot rest
      else none

/-- A source line's words (30_encoding.md R70, R71). -/
def assembleText (cs : List Char) : Except AsmError (List Word) :=
  match parseLine cs with
  | some l => assembleLine l
  | none => .error .badLine

/-- A source program, one command per line (30_encoding.md R70): the words of its lines in order. -/
def assembleProgram : List (List Char) → Except AsmError (List Word)
  | [] => .ok []
  | l :: ls =>
    match assembleText l, assembleProgram ls with
    | .ok ws, .ok vs => .ok (ws ++ vs)
    | .error e, _ => .error e
    | .ok _, .error e => .error e

/-! ### From words to text -/

/-- The hexadecimal digit, in upper case, of a number below 16. -/
def hexChar (n : Nat) : Char :=
  if n < 10 then Char.ofNat ('0'.toNat + n) else Char.ofNat ('A'.toNat + (n - 10))

/-- A byte as `0xNN`. -/
def hexByte (b : Byte) : List Char := ['0', 'x', hexChar (b.toNat / 16), hexChar (b.toNat % 16)]

/-- A word as `0xNNNN`. -/
def hexWord (w : Word) : List Char :=
  ['0', 'x', hexChar (w.toNat / 4096), hexChar (w.toNat / 256 % 16), hexChar (w.toNat / 16 % 16),
    hexChar (w.toNat % 16)]

/-- The disassembler: a legal word as its mnemonic and operand, an illegal word as `.word 0xNNNN ; illegal`
(30_encoding.md R71). -/
def disassemble (w : Word) : List Char :=
  match decode w with
  | .ok .nop => "NOP".toList
  | .ok .start => "START".toList
  | .ok (.byte b) => "BYTE ".toList ++ hexByte b
  | .ok .endKey => "END".toList
  | .ok (.romrd i) => "ROMRD ".toList ++ hexByte i
  | .error _ => ".word ".toList ++ hexWord w ++ " ; illegal".toList

end Sys2Proof.Machine
end

