-- ==== Sys2Proof/Machine/Ports.lean ====
section
/-! DEFINITION. The output ports (spec/10_state.md R23, R43, R44), as views of the state and, for the two that are
combinational, of the edge's inputs. Reading a port changes nothing (R40). -/

namespace Sys2Proof.Machine

/-- The output ports of a build with the given LEN_W (10_state.md R23). -/
structure OutputPorts (lenW : Nat) where
  cmdReady : Bool
  slotO : SlotNo
  crcEffO : Word
  crcKeyO : Word
  keyLenO : BitVec lenW
  effStartO : BitVec lenW
  effLenO : BitVec lenW
  romDataO : Word
  statusO : BitVec 8
  rndTakeO : Bool
deriving DecidableEq, Repr

/-- `rnd_take_o`: 1 exactly when the edge accepts the word 0x3000 while `KEY_LEN = 0` (10_state.md R43). -/
def rndTake (s : State) (e : Edge) : Bool :=
  e.accepts && decide (e.cmd = 0x3000#16) && decide (s.keyLen = 0)

/-- What the ports show in the cycle of the edge `e`, before it: the registers' values after the last accepted command,
and the two combinational outputs (10_state.md R23). -/
def outputPorts (s : State) (e : Edge) : OutputPorts s.lenW where
  cmdReady := e.cmdReady
  slotO := s.slot
  crcEffO := s.crcEff
  crcKeyO := s.crcKey
  keyLenO := BitVec.ofNat s.lenW s.keyLen
  effStartO := BitVec.ofNat s.lenW s.effStart
  effLenO := BitVec.ofNat s.lenW s.effLen
  romDataO := s.romData
  statusO := status s
  rndTakeO := rndTake s e

end Sys2Proof.Machine
end

