-- ==== Sys2Proof/Machine/Reference.lean ====
section
/-! DEFINITION. The spec's reference functions on whole keys (spec/00_scope.md R18): `crc16`, the bit-serial form,
`effectiveKey`, the scan state of a key prefix, and `Slot`. -/

namespace Sys2Proof.Machine

/-- `crc16(s)` (40_crc_engine.md R75): the byte update from index 0 upward, from the initial value, with no final
exclusive-or. -/
def crc16 (s : List Byte) : Word := s.foldl crcUpd crcInit

/-- One byte of the bit-serial form (40_crc_engine.md R76). -/
def bitSerialUpd (c : Word) (b : Byte) : Word := crcShift8 (c ^^^ (b ++ 0x00#8))

/-- The bit-serial characterisation of the checksum (40_crc_engine.md R76). -/
def bitSerialCrc (s : List Byte) : Word := s.foldl bitSerialUpd 0x0000#16

/-- `k[a ..< b]`: the bytes with index at least `a` and less than `b` (00_scope.md R16). -/
def slice (k : List Byte) (a b : Nat) : List Byte := (k.drop a).take (b - a)

/-- What `effectiveKey` answers: a range and whether it is a tag (41_hash_tag_extractor.md R80). -/
structure EffRange where
  start : Nat
  len : Nat
  tagged : Bool
deriving DecidableEq, Repr

/-- The index of the first open brace. -/
def firstOpen (k : List Byte) : Option Nat := k.findIdx? (fun b => b == openBrace)

/-- How many bytes stand between index `s` and the first close brace after it. -/
def closeAfter (k : List Byte) (s : Nat) : Option Nat :=
  (k.drop (s + 1)).findIdx? (fun b => b == closeBrace)

/-- `effectiveKey(k)` (41_hash_tag_extractor.md R80, R82): only the first open brace and the first close brace after it
decide; an empty pair is no tag and nothing is scanned further (90_conflicts.md C1). -/
def effectiveKey (k : List Byte) : EffRange :=
  match firstOpen k with
  | none => { start := 0, len := k.length, tagged := false }
  | some s =>
    match closeAfter k s with
    | none => { start := 0, len := k.length, tagged := false }
    | some 0 => { start := 0, len := k.length, tagged := false }
    | some (d + 1) => { start := s + 1, len := d + 1, tagged := true }

/-- `EK(k)`, the effective key's bytes (41_hash_tag_extractor.md R80). -/
def effectiveBytes (k : List Byte) : List Byte :=
  slice k (effectiveKey k).start ((effectiveKey k).start + (effectiveKey k).len)

/-- The scan state of a key prefix (41_hash_tag_extractor.md R84). -/
def scanStateOf (k : List Byte) : TState :=
  match firstOpen k with
  | none => .scan
  | some s =>
    match closeAfter k s with
    | none => .opened
    | some 0 => .noTag
    | some (_ + 1) => .tag

/-- The candidate tag: the bytes after the first open brace and before the first close brace after it, or to the end
of the key (41_hash_tag_extractor.md R88). -/
def candidateTag (k : List Byte) : List Byte :=
  match firstOpen k with
  | none => []
  | some s => (k.drop (s + 1)).takeWhile (fun b => b != closeBrace)

/-- `Slot(k, r)` (42_slot_resolver.md R89): an integer in [0, 16384). -/
def slotFunction (k : List Byte) (r : SlotNo) : Nat :=
  if (effectiveKey k).len = 0 then r.toNat
  else (crc16 (effectiveBytes k)).toNat % slotCount

end Sys2Proof.Machine
end

