-- ==== Sys2Proof/Safety.lean ====
section
/-! DEFINITION. What statements are about: the invariants of the register set, the relation between the registers and
the key delivered so far, and the parts of a run that a claim may look at. -/

namespace Sys2Proof.Machine

/-! ### Invariants of the registers -/

/-- LEN_W is a legal width and every length and position register fits it (00_scope.md R12, 10_state.md R26, R30,
41_hash_tag_extractor.md R87). -/
abbrev State.WidthsOk (s : State) : Prop :=
  1 ≤ s.lenW ∧ s.keyLen ≤ satMax s.lenW ∧ s.tagOpen ≤ satMax s.lenW ∧ s.tagLen ≤ satMax s.lenW
    ∧ s.effStart ≤ satMax s.lenW ∧ s.effLen ≤ satMax s.lenW

/-- The accumulators agree with one another: nothing is counted in SCAN, a tag is never empty, the tag counters never
exceed KEY_LEN, LEN_SAT means that KEY_LEN is saturated, and while it is 0 the positions fit inside the key
(41_hash_tag_extractor.md R85, R87, R88). -/
abbrev State.ScanOk (s : State) : Prop :=
  (s.tState = .scan → s.crcTag = 0#16 ∧ s.tagOpen = 0 ∧ s.tagLen = 0)
    ∧ (s.tState ≠ .scan → 1 ≤ s.keyLen)
    ∧ (s.tState = .tag → 1 ≤ s.tagLen)
    ∧ (s.tState = .noTag → s.tagLen = 0)
    ∧ (s.tagLen = 0 → s.crcTag = 0#16)
    ∧ (s.keyLen = 0 → s.crcKey = 0#16)
    ∧ s.tagOpen ≤ s.keyLen ∧ s.tagLen ≤ s.keyLen
    ∧ (s.lenSat = true → s.keyLen = satMax s.lenW)
    ∧ (s.lenSat = false → s.tState = .opened → s.tagOpen + 1 + s.tagLen ≤ s.keyLen)
    ∧ (s.lenSat = false → s.tState = .tag ∨ s.tState = .noTag → s.tagOpen + 2 + s.tagLen ≤ s.keyLen)

/-- The result registers agree with one another: TAGGED and RANDOM are never both 1 (10_state.md R33), outside the
random path SLOT is the low 14 bits of CRC_EFF, the random path describes the empty range (42_slot_resolver.md R94,
R95), and only a tag starts behind the first byte. -/
abbrev State.ResultsOk (s : State) : Prop :=
  ¬ (s.tagged = true ∧ s.random = true)
    ∧ (s.random = false → s.slot = slotOfCrc s.crcEff)
    ∧ (s.random = true → s.crcEff = 0#16 ∧ s.effStart = 0 ∧ s.effLen = 0)
    ∧ (s.tagged = true → 1 ≤ s.effStart ∧ 1 ≤ s.effLen)
    ∧ (s.tagged = false → s.effStart = 0)

/-- While DONE is 1 the result registers are what the accumulators give (10_state.md R34, 42_slot_resolver.md R94). -/
abbrev State.DoneOk (s : State) : Prop :=
  s.done = true →
    (s.keyLen = 0 → s.random = true ∧ s.tagged = false)
      ∧ (s.keyLen ≠ 0 → s.tState = .tag →
          s.tagged = true ∧ s.random = false ∧ s.crcEff = s.crcTag
            ∧ s.effStart = sat s.lenW (s.tagOpen + 1) ∧ s.effLen = s.tagLen)
      ∧ (s.keyLen ≠ 0 → s.tState ≠ .tag →
          s.tagged = false ∧ s.random = false ∧ s.crcEff = s.crcKey ∧ s.effStart = 0 ∧ s.effLen = s.keyLen)

/-- The invariant of the machine. -/
abbrev State.Inv (s : State) : Prop := s.WidthsOk ∧ s.ScanOk ∧ s.ResultsOk ∧ s.DoneOk

/-- A claim about a command sequence may take as a premise that no illegal word was accepted (60_exceptions.md
R108). -/
abbrev State.NoIllegal (s : State) : Prop := s.ill = false

/-! ### The registers and the key -/

/-- The accumulators hold what 41_hash_tag_extractor.md R88 says of the key `k` delivered so far, at any length, and
what 10_state.md R28 and 41_hash_tag_extractor.md R85 say where no candidate tag byte has arrived. -/
def State.Accumulates (s : State) (k : List Byte) : Prop :=
  s.crcKey = crc16 k
    ∧ s.tState = scanStateOf k
    ∧ s.crcTag = crc16 (candidateTag k)
    ∧ (s.tagLen = 0 ↔ candidateTag k = [])
    ∧ s.tagLen = min (candidateTag k).length (satMax s.lenW)
    ∧ s.keyLen = min k.length (satMax s.lenW)
    ∧ (s.lenSat = true ↔ satMax s.lenW < k.length)
    ∧ (∀ i, firstOpen k = some i → s.tagOpen = min i (satMax s.lenW))
    ∧ (firstOpen k = none → s.tagOpen = 0)

/-- The result registers describe the key `k` (10_state.md R34; 42_slot_resolver.md R89, R94; 43_control.md R101),
with exact positions for a key of at most SATMAX bytes. -/
def State.Describes (s : State) (k : List Byte) : Prop :=
  (k = [] → s.random = true ∧ s.tagged = false ∧ s.crcEff = crc16 [] ∧ s.effStart = 0 ∧ s.effLen = 0)
    ∧ (k ≠ [] →
        s.random = false ∧ s.tagged = (effectiveKey k).tagged ∧ s.crcEff = crc16 (effectiveBytes k)
          ∧ s.slot = slotOfCrc (crc16 (effectiveBytes k))
          ∧ (k.length ≤ satMax s.lenW → s.effStart = (effectiveKey k).start ∧ s.effLen = (effectiveKey k).len))

/-- The registers track the key `k`: the accumulators hold it, and while DONE is 1 the results describe it. -/
def State.Tracks (s : State) (k : List Byte) : Prop :=
  1 ≤ s.lenW ∧ s.Accumulates k ∧ (s.done = true → s.Describes k)

/-- The key after one more edge: reset and an accepted START make it empty, an accepted BYTE appends its byte, and
nothing else changes it (00_scope.md R20, 20_memory.md R48, R49). -/
def keyAfterEdge (e : Edge) (k : List Byte) : List Byte :=
  if e.rstN = false then []
  else if e.accepts then
    match decode e.cmd with
    | .ok .start => []
    | .ok (.byte b) => k ++ [b]
    | .ok .nop => k
    | .ok .endKey => k
    | .ok (.romrd _) => k
    | .error _ => k
  else k

/-- The key after the next step: the next listed edge, if any, happens. -/
def keyAfterStep (s : State) (k : List Byte) : List Byte :=
  match s.edges with
  | [] => k
  | e :: _ => keyAfterEdge e k

/-! ### Parts of a state and of a run -/

/-- The block alone: the state with what the environment shows on the ports set to fixed values. Two states with equal
blocks agree on the sixteen registers and on LEN_W. -/
def State.block (s : State) : State := { s with rnd := 0#14, draws := 0, edges := [] }

/-- `n` steps, stopping at the first that gives no next state. -/
def runSteps : Nat → State → Outcome
  | 0, s => .next s
  | n + 1, s =>
    match step s with
    | .next t => runSteps n t
    | .fault f => .fault f
    | .refused r => .refused r

/-- The commands that take no part in a key: NOP, ROMRD and every illegal word (43_control.md R101). -/
def quietWord (w : Word) : Bool :=
  match decode w with
  | .ok .nop => true
  | .ok (.romrd _) => true
  | .error _ => true
  | .ok .start => false
  | .ok (.byte _) => false
  | .ok .endKey => false

/-- The words of a sequence that take part in a key, each with the value on `rnd` at its edge. -/
def keyCommands (ws : List (Word × SlotNo)) : List (Word × SlotNo) := ws.filter (fun p => !quietWord p.1)

/-- ROM_DATA after a sequence of accepted words: the entry the last ROMRD named, or what it was. -/
def romDataAfter (ws : List (Word × SlotNo)) (v : Word) : Word :=
  ws.foldl (fun acc p => match decode p.1 with
    | .ok (.romrd i) => rom i
    | .ok .nop => acc
    | .ok .start => acc
    | .ok (.byte _) => acc
    | .ok .endKey => acc
    | .error _ => acc) v

/-- An illegal word is in the sequence. -/
def anyIllegal (ws : List (Word × SlotNo)) : Bool := ws.any (fun p => !legalWord p.1)

/-- The words a list of edges accepts, each with the value on `rnd` at its edge (10_state.md R22). -/
def acceptedWords (es : List Edge) : List (Word × SlotNo) :=
  (es.filter Edge.accepts).map (fun e => (e.cmd, e.rnd))

end Sys2Proof.Machine
end

