-- ==== Sys2Proof/Certificates/Slice0/Obligations.lean ====
section
/-! DEFINITION. The statements for the provers, each from a numbered rule of spec/ or derived from its rules. -/

open Sys2Proof
open Sys2Proof.Machine

/-! ### Helpers of the statements -/

/-- A value read as a polynomial over GF(2): bit `i` is the coefficient of `x^i` (40_crc_engine.md R76). -/
noncomputable def Sys2Proof.Machine.bitsPoly {n : Nat} (v : BitVec n) : Polynomial (ZMod 2) :=
  ∑ i ∈ Finset.range n, if v.getLsbD i then Polynomial.X ^ i else 0

/-- The message polynomial: bit 7 of byte 0 is the highest coefficient (40_crc_engine.md R76). -/
noncomputable def Sys2Proof.Machine.messagePoly (s : List Byte) : Polynomial (ZMod 2) :=
  s.foldl (fun p b => p * Polynomial.X ^ 8 + bitsPoly b) 0

/-- `P(x) = x^16 + x^12 + x^5 + 1` (40_crc_engine.md R76). -/
noncomputable def Sys2Proof.Machine.crcPoly : Polynomial (ZMod 2) :=
  Polynomial.X ^ 16 + Polynomial.X ^ 12 + Polynomial.X ^ 5 + 1

/-- How many of the 65536 words satisfy a test. -/
def Sys2Proof.Machine.countWords (p : Word → Bool) : Nat :=
  (List.range 65536).countP (fun n => p (BitVec.ofNat 16 n))

/-- The ASCII bytes of "123456789" (00_scope.md R3). -/
def Sys2Proof.Machine.checkKey : List Byte :=
  [0x31#8, 0x32#8, 0x33#8, 0x34#8, 0x35#8, 0x36#8, 0x37#8, 0x38#8, 0x39#8]

/-- The ASCII bytes of "foo". -/
def Sys2Proof.Machine.fooKey : List Byte := [0x66#8, 0x6F#8, 0x6F#8]

/-! ### Encoding -/

/-- 30_encoding.md section 2 (R65, R66): a word decodes to a command exactly when it is the command's word. -/
def Obligations.DecodeInvertsEncode : Prop :=
  ∀ (w : Word) (i : Instr), decode w = .ok i ↔ encode i = w

/-- 30_encoding.md R65: a word spells a row's command exactly when `(w & mask) = match`, with the operand in bits 7:0;
the rows do not overlap; there are 515 legal words and 65021 others. -/
def Obligations.OpcodeMapDecides : Prop :=
  (∀ w : Word,
    (decode w = .ok .nop ↔ w &&& 0xFFFF#16 = 0x0000#16)
      ∧ (decode w = .ok .start ↔ w &&& 0xFFFF#16 = 0x1000#16)
      ∧ (∀ b : Byte, decode w = .ok (.byte b) ↔ w &&& 0xFF00#16 = 0x2000#16 ∧ w.setWidth 8 = b)
      ∧ (decode w = .ok .endKey ↔ w &&& 0xFFFF#16 = 0x3000#16)
      ∧ (∀ i : Byte, decode w = .ok (.romrd i) ↔ w &&& 0xFF00#16 = 0x4000#16 ∧ w.setWidth 8 = i))
    ∧ (∀ (w : Word) (i j : Instr),
        w &&& rowMask i = rowMatch i → w &&& rowMask j = rowMatch j →
          rowMatch i = rowMatch j ∧ rowMask i = rowMask j)
    ∧ countWords legalWord = 515
    ∧ countWords (fun w => !legalWord w) = 65021

/-- 30_encoding.md R67: the illegal words are the three classes (a), (b), (c), with 61440, 2816 and 765 members, and
every illegal word, once accepted, sets ILL and writes no other register. -/
def Obligations.IllegalWordsAreTheThreeClasses : Prop :=
  (∀ w : Word,
    (decode w = .error .reservedBits ↔ w.toNat / 256 % 16 ≠ 0)
      ∧ (decode w = .error .reservedOpcode ↔ w.toNat / 256 % 16 = 0 ∧ 5 ≤ w.toNat / 4096)
      ∧ (decode w = .error .operandNotZero ↔
          w.toNat / 256 % 16 = 0
            ∧ (w.toNat / 4096 = 0 ∨ w.toNat / 4096 = 1 ∨ w.toNat / 4096 = 3) ∧ w.toNat % 256 ≠ 0))
    ∧ countWords (fun w => decide (decode w = .error .reservedBits)) = 61440
    ∧ countWords (fun w => decide (decode w = .error .reservedOpcode)) = 2816
    ∧ countWords (fun w => decide (decode w = .error .operandNotZero)) = 765
    ∧ (∀ (w : Word) (r : SlotNo) (s : State), legalWord w = false →
        ∃ t, acceptWord w r s = .next t ∧ t.block = { s with ill := true }.block)

/-- 95_test_vectors.md section 4.1: words written out from the encodings. -/
def Obligations.KnownWordsDecode : Prop :=
  decode 0x0000#16 = .ok .nop ∧ decode 0x1000#16 = .ok .start ∧ decode 0x2000#16 = .ok (.byte 0x00#8)
    ∧ decode 0x20FF#16 = .ok (.byte 0xFF#8) ∧ decode 0x207B#16 = .ok (.byte 0x7B#8)
    ∧ decode 0x3000#16 = .ok .endKey ∧ decode 0x4001#16 = .ok (.romrd 0x01#8)
    ∧ decode 0x40FF#16 = .ok (.romrd 0xFF#8)
    ∧ decode 0x0001#16 = .error .operandNotZero ∧ decode 0x0100#16 = .error .reservedBits
    ∧ decode 0x3001#16 = .error .operandNotZero ∧ decode 0x5000#16 = .error .reservedOpcode
    ∧ decode 0x4F00#16 = .error .reservedBits ∧ decode 0xFFFF#16 = .error .reservedBits

/-! ### The step -/

/-- A step runs the decoded instruction: where the next edge accepts a word that decodes to `i`, the step is `exec i`
at the state with that edge taken off the list and its `rnd` on the entropy port (the list of edges and the field
`rnd` are the model's, logs 2 and 3; the rest is 43_control.md section 2). -/
def Obligations.StepRunsDecodedInstruction : Prop :=
  ∀ (s : State) (e : Edge) (rest : List Edge) (i : Instr),
    s.edges = e :: rest → e.rstN = true → e.cmdValid = true → e.ready = true → decode e.cmd = .ok i →
      step s = exec i { s with edges := rest, rnd := e.rnd }

/-- 43_control.md R100, 60_exceptions.md R110, 10_state.md R22: at a rising edge the block is reset, or accepts the
word on the port and runs the command it spells or raises IllegalCommand, or stays as it is, tested in that order. -/
def Obligations.EdgeDoesExactlyOneThing : Prop :=
  ∀ (s : State) (e : Edge) (rest : List Edge), s.edges = e :: rest →
    (e.rstN = false → ∃ t, step s = .next t ∧ t.block = (State.resetBuild s.lenW).block)
      ∧ (e.rstN = true → e.cmdValid = true → e.ready = true →
          (∀ i, decode e.cmd = .ok i → step s = exec i { s with edges := rest, rnd := e.rnd })
            ∧ (∀ x, decode e.cmd = .error x →
                ∃ t, step s = .next t ∧ t.block = { s with ill := true }.block))
      ∧ (e.rstN = true → e.cmdValid = false ∨ e.ready = false →
          ∃ t, step s = .next t ∧ t.block = s.block)

/-- The model's choice of log 2: each step takes one edge off the list, and where no edge is listed the state stays
(as 60_exceptions.md section 5 says of a cycle that accepts nothing). -/
def Obligations.StepTakesOneEdge : Prop :=
  (∀ s : State, s.edges = [] → step s = .next s)
    ∧ (∀ (s t : State) (e : Edge) (rest : List Edge), s.edges = e :: rest → step s = .next t → t.edges = rest)

/-- The model's choice of log 2: a word presented by `withFetchWord` is the one the next step accepts, whatever edges
stood in the list. -/
def Obligations.PresentedWordRunsNext : Prop :=
  ∀ (s : State) (nbits w : Nat), step (s.withFetchWord nbits w) = acceptWord (BitVec.ofNat 16 w) s.rnd s

/-- 60_exceptions.md section 1 (R105), 70_reset_and_hazards.md section 4 (R132): every command and every edge
completes; nothing stops the block. -/
def Obligations.EveryCommandAndEdgeCompletes : Prop :=
  (∀ (i : Instr) (s : State), ∃ t, exec i s = .next t)
    ∧ (∀ s : State, ∃ t, step s = .next t)
    ∧ (∀ (ws : List (Word × SlotNo)) (s : State), ∃ t, runAccepted ws s = .next t)

/-- 70_reset_and_hazards.md R120: one edge with `rst_n = 0` gives every register its reset value, from any state; the
word on `cmd` is not accepted; `cmd_ready` and `rnd_take_o` are 0; a second such edge changes nothing further. -/
def Obligations.ResetEdgeClearsEveryRegister : Prop :=
  ∀ (s : State) (e : Edge) (rest : List Edge), s.edges = e :: rest → e.rstN = false →
    e.accepts = false ∧ (outputPorts s e).cmdReady = false ∧ (outputPorts s e).rndTakeO = false
      ∧ ∃ t, step s = .next t
          ∧ t.crcKey = 0x0000#16 ∧ t.crcTag = 0x0000#16 ∧ t.tState = .scan ∧ t.keyLen = 0 ∧ t.tagOpen = 0
          ∧ t.tagLen = 0 ∧ t.lenSat = false ∧ t.done = false ∧ t.slot = 0x0000#14 ∧ t.crcEff = 0x0000#16
          ∧ t.effStart = 0 ∧ t.effLen = 0 ∧ t.tagged = false ∧ t.random = false ∧ t.romData = 0x0000#16
          ∧ t.ill = false ∧ status t = 0x00#8
          ∧ (∀ (f : Edge) (more : List Edge), t.edges = f :: more → f.rstN = false →
              ∃ u, step t = .next u ∧ u.block = t.block)

/-- 10_state.md R45: after reset every register is 0, TSTATE is SCAN and STATUS is 0x00, in a build of any LEN_W;
the ROM is a constant outside the state. -/
def Obligations.ResetStateIsAllZero : Prop :=
  ∀ n : Nat,
    (State.resetBuild n).crcKey = 0 ∧ (State.resetBuild n).crcTag = 0 ∧ (State.resetBuild n).tState = .scan
      ∧ (State.resetBuild n).keyLen = 0 ∧ (State.resetBuild n).tagOpen = 0 ∧ (State.resetBuild n).tagLen = 0
      ∧ (State.resetBuild n).lenSat = false ∧ (State.resetBuild n).done = false
      ∧ (State.resetBuild n).slot = 0 ∧ (State.resetBuild n).crcEff = 0
      ∧ (State.resetBuild n).effStart = 0 ∧ (State.resetBuild n).effLen = 0
      ∧ (State.resetBuild n).tagged = false ∧ (State.resetBuild n).random = false
      ∧ (State.resetBuild n).romData = 0 ∧ (State.resetBuild n).ill = false
      ∧ status (State.resetBuild n) = 0x00#8

/-- 70_reset_and_hazards.md section 1 (R121): the reset state is a START state, and reset also clears what START does
not. -/
def Obligations.ResetStateIsAStartState : Prop :=
  (∀ n : Nat, exec .start (State.resetBuild n) = .next (State.resetBuild n))
    ∧ (∀ s t : State, exec .start s = .next t →
        (resetRegisters s).block
          = { t with slot := 0, crcEff := 0, effStart := 0, effLen := 0, tagged := false, random := false,
                     romData := 0, ill := false }.block)

/-! ### The commands -/

/-- 43_control.md R98: NOP writes no register; 0x0000 is the only no-op word, any other word with `OP = 0x0` is
illegal. -/
def Obligations.NopWritesNothing : Prop :=
  (∀ s : State, exec .nop s = .next s)
    ∧ encode .nop = 0x0000#16
    ∧ (∀ w : Word, w.toNat / 4096 = 0 → w ≠ 0x0000#16 → legalWord w = false)
    ∧ (∀ w : Word, decode w = .ok .nop → w = 0x0000#16)

/-- 43_control.md R99: START clears the accumulators, LEN_SAT and DONE and nothing else; a second START adds nothing;
after reset it changes nothing; it does not clear ILL; and the worked example. -/
def Obligations.StartClearsTheAccumulators : Prop :=
  (∀ s : State,
    exec .start s
      = .next { s with crcKey := 0x0000#16, crcTag := 0x0000#16, tState := .scan, keyLen := 0, tagOpen := 0,
                       tagLen := 0, lenSat := false, done := false })
    ∧ encode .start = 0x1000#16
    ∧ (∀ s t : State, exec .start s = .next t → exec .start t = .next t ∧ t.ill = s.ill)
    ∧ (∀ n : Nat, exec .start (State.resetBuild n) = .next (State.resetBuild n))
    ∧ (∀ t u : State,
        runAccepted ((slotWords fooKey).map (fun w => (w, 0#14))) State.reset = .next t → exec .start t = .next u →
          u.crcKey = 0x0000#16 ∧ u.keyLen = 0 ∧ u.done = false ∧ u.slot = 12182#14)

/-- 41_hash_tag_extractor.md R86: what BYTE does to every register, each value computed from the state before the
command; every register not named keeps its value; the encoding; the corner case of a leading zero byte; and the
worked example. -/
def Obligations.ByteAppendsToTheKey : Prop :=
  (∀ (s : State) (b : Byte),
    exec (.byte b) s
      = .next { s with
          crcKey := crcUpd s.crcKey b
          crcTag := if s.tState = .opened ∧ b ≠ 0x7D#8 then crcUpd s.crcTag b else s.crcTag
          tState :=
            if s.tState = .scan ∧ b = 0x7B#8 then .opened
            else if s.tState = .opened ∧ b = 0x7D#8 ∧ s.tagLen = 0 then .noTag
            else if s.tState = .opened ∧ b = 0x7D#8 ∧ s.tagLen ≠ 0 then .tag
            else s.tState
          keyLen := min (s.keyLen + 1) (2 ^ s.lenW - 1)
          tagOpen := if s.tState = .scan ∧ b = 0x7B#8 then s.keyLen else s.tagOpen
          tagLen :=
            if s.tState = .opened ∧ b ≠ 0x7D#8 then min (s.tagLen + 1) (2 ^ s.lenW - 1) else s.tagLen
          lenSat := s.lenSat || decide (s.keyLen = 2 ^ s.lenW - 1)
          done := false })
    ∧ (∀ b : Byte, encode (.byte b) = 0x2000#16 ||| b.setWidth 16)
    ∧ crcUpd 0x0000#16 0x00#8 = 0x0000#16
    ∧ (∀ s t u : State, exec .start s = .next t → exec (.byte 0x7B#8) t = .next u → 1 ≤ s.lenW →
        u.tState = .opened ∧ u.tagOpen = 0 ∧ u.keyLen = 1 ∧ u.crcKey = 0xCFFC#16 ∧ u.crcTag = 0x0000#16
          ∧ u.done = false)

/-- 41_hash_tag_extractor.md R85: the transition table of the extractor, row by row; TAG and NOTAG stay until START or
reset; and what SCAN holds stays zero. -/
def Obligations.ByteFollowsTheScanTable : Prop :=
  (∀ (s t : State) (b : Byte), exec (.byte b) s = .next t →
    (s.tState = .scan → b = 0x7B#8 →
        t.tState = .opened ∧ t.crcTag = s.crcTag ∧ t.tagOpen = s.keyLen ∧ t.tagLen = s.tagLen)
      ∧ (s.tState = .scan → b ≠ 0x7B#8 →
          t.tState = .scan ∧ t.crcTag = s.crcTag ∧ t.tagOpen = s.tagOpen ∧ t.tagLen = s.tagLen)
      ∧ (s.tState = .opened → b = 0x7D#8 → s.tagLen = 0 →
          t.tState = .noTag ∧ t.crcTag = s.crcTag ∧ t.tagOpen = s.tagOpen ∧ t.tagLen = s.tagLen)
      ∧ (s.tState = .opened → b = 0x7D#8 → s.tagLen ≠ 0 →
          t.tState = .tag ∧ t.crcTag = s.crcTag ∧ t.tagOpen = s.tagOpen ∧ t.tagLen = s.tagLen)
      ∧ (s.tState = .opened → b ≠ 0x7D#8 →
          t.tState = .opened ∧ t.crcTag = crcUpd s.crcTag b ∧ t.tagOpen = s.tagOpen
            ∧ t.tagLen = sat s.lenW (s.tagLen + 1))
      ∧ (s.tState = .tag ∨ s.tState = .noTag →
          t.tState = s.tState ∧ t.crcTag = s.crcTag ∧ t.tagOpen = s.tagOpen ∧ t.tagLen = s.tagLen))
    ∧ (∀ (i : Instr) (s t : State), i ≠ .start → exec i s = .next t →
        s.tState = .tag ∨ s.tState = .noTag → t.tState = s.tState)
    ∧ (∀ (i : Instr) (s t : State), exec i s = .next t →
        (s.tState = .scan → s.crcTag = 0x0000#16 ∧ s.tagOpen = 0 ∧ s.tagLen = 0) →
        (t.tState = .scan → t.crcTag = 0x0000#16 ∧ t.tagOpen = 0 ∧ t.tagLen = 0))

/-- 42_slot_resolver.md R94, R95: the three-way choice of END, every register it writes and none other (compared on
the block, so that the environment's fields `rnd` and `draws` are left out); the encoding; a second END rewrites the same
results, or on an empty key takes a second draw; a key of one zero byte; KEY_LEN does not return to 0; and the worked
example. -/
def Obligations.EndResolvesTheSlot : Prop :=
  (∀ s : State, ∃ t, exec .endKey s = .next t
    ∧ (s.keyLen = 0 →
        t.block = { s with slot := s.rnd, crcEff := 0x0000#16, effStart := 0, effLen := 0, tagged := false,
                           random := true, done := true }.block)
    ∧ (s.keyLen ≠ 0 → s.tState = .tag →
        t.block = { s with slot := s.crcTag.setWidth 14, crcEff := s.crcTag,
                           effStart := min (s.tagOpen + 1) (2 ^ s.lenW - 1), effLen := s.tagLen, tagged := true,
                           random := false, done := true }.block)
    ∧ (s.keyLen ≠ 0 → s.tState ≠ .tag →
        t.block = { s with slot := s.crcKey.setWidth 14, crcEff := s.crcKey, effStart := 0, effLen := s.keyLen,
                           tagged := false, random := false, done := true }.block)
    ∧ (s.keyLen ≠ 0 → exec .endKey t = .next t)
    ∧ (s.keyLen = 0 → ∃ u, exec .endKey t = .next u ∧ u.slot = t.rnd ∧ u.draws = s.draws + 2))
    ∧ encode .endKey = 0x3000#16
    ∧ crc16 [] = 0x0000#16
    ∧ (∀ t : State, runAccepted ((slotWords [0x00#8]).map (fun w => (w, 5#14))) State.reset = .next t →
        t.slot = 0#14 ∧ t.random = false)
    ∧ (∀ (i : Instr) (s t : State), i ≠ .start → exec i s = .next t → 1 ≤ s.lenW → s.keyLen ≠ 0 → t.keyLen ≠ 0)
    ∧ (∀ t : State, runAccepted ((slotWords checkKey).map (fun w => (w, 0#14))) State.reset = .next t →
        t.crcEff = 0x31C3#16 ∧ t.slot = 12739#14 ∧ t.tagged = false ∧ t.random = false ∧ t.effStart = 0
          ∧ t.effLen = 9 ∧ t.done = true)

/-- The model's choice of log 3, after 42_slot_resolver.md sections 1 and 2: END on an empty key takes the value the
port shows, counts it, and leaves the port at the next free value; END on any other key, and every other command,
leaves both. What the free value is, no statement says. -/
def Obligations.EmptyEndConsumesOneDraw : Prop :=
  (∀ s : State, s.keyLen = 0 → ∃ t, exec .endKey s = .next t ∧ t.slot = s.rnd ∧ t.draws = s.draws + 1
      ∧ t.rnd = Config.freshRnd (s.draws + 1))
    ∧ (∀ s t : State, s.keyLen ≠ 0 → exec .endKey s = .next t → t.draws = s.draws ∧ t.rnd = s.rnd)
    ∧ (∀ (i : Instr) (s t : State), i ≠ .endKey → exec i s = .next t → t.draws = s.draws ∧ t.rnd = s.rnd)

/-- 42_slot_resolver.md section 2 (R92), 70_reset_and_hazards.md section 3 (R127): the value on `rnd` is read at an
accepted END on an empty key, where it is the slot, and at no other accepted word. -/
def Obligations.EntropyIsReadByEmptyEndOnly : Prop :=
  (∀ (r : SlotNo) (s : State), s.keyLen = 0 → ∃ t, acceptWord 0x3000#16 r s = .next t ∧ t.slot = r)
    ∧ (∀ (w : Word) (r r' : SlotNo) (s : State), ¬ (w = 0x3000#16 ∧ s.keyLen = 0) →
        ∃ t t', acceptWord w r s = .next t ∧ acceptWord w r' s = .next t' ∧ t.block = t'.block
          ∧ t.draws = s.draws ∧ t'.draws = s.draws)

/-- 40_crc_engine.md R78: ROMRD writes the ROM entry it names to ROM_DATA and nothing else; the encoding; a word with
`RSV != 0` is illegal; the corner cases and the worked example. -/
def Obligations.RomrdReadsTheEntry : Prop :=
  (∀ (s : State) (i : Byte), exec (.romrd i) s = .next { s with romData := rom i })
    ∧ (∀ i : Byte, encode (.romrd i) = 0x4000#16 ||| i.setWidth 16)
    ∧ (∀ w : Word, w.toNat / 256 % 16 ≠ 0 → legalWord w = false)
    ∧ rom 0x00#8 = 0x0000#16 ∧ rom 0x01#8 = 0x1021#16 ∧ rom 0xFF#8 = 0x1EF0#16

/-- 60_exceptions.md R107: an accepted illegal word sets ILL and changes no other register, `rnd_take_o` is 0, and the
next legal command runs exactly as if the illegal word had not been presented; and the worked examples. -/
def Obligations.IllegalCommandOnlySetsIll : Prop :=
  (∀ (s : State) (e : Edge) (rest : List Edge), s.edges = e :: rest → e.accepts = true → legalWord e.cmd = false →
    rndTake s e = false ∧ ∃ t, step s = .next t ∧ t.block = { s with ill := true }.block)
    ∧ (∀ (i : Instr) (s : State), ∃ t, exec i s = .next t ∧ exec i { s with ill := true } = .next { t with ill := true })
    ∧ legalWord 0x5000#16 = false ∧ legalWord 0x3001#16 = false

/-! ### Flags and who writes what -/

/-- 10_state.md R34: START, BYTE and reset clear DONE, END sets it, NOP, ROMRD, an illegal word and an edge that
accepts nothing leave it; and while DONE is 1 the result registers describe the key made of all BYTEs since the last
START or reset. -/
def Obligations.DoneMarksValidResults : Prop :=
  (∀ s t : State, exec .start s = .next t → t.done = false)
    ∧ (∀ (b : Byte) (s t : State), exec (.byte b) s = .next t → t.done = false)
    ∧ (∀ s t : State, exec .endKey s = .next t → t.done = true)
    ∧ (∀ s t : State, exec .nop s = .next t → t.done = s.done)
    ∧ (∀ (i : Byte) (s t : State), exec (.romrd i) s = .next t → t.done = s.done)
    ∧ (∀ s : State, (raiseIllegalCommand s).done = s.done ∧ (resetRegisters s).done = false)
    ∧ (∀ (k : List Byte) (s t : State), s.Tracks k → step s = .next t → t.done = true →
        t.Describes (keyAfterStep s k))

/-- 10_state.md R35, R36: END writes TAGGED (non-empty key in TAG) and RANDOM (empty key); reset clears both; nothing
else writes them. -/
def Obligations.TaggedAndRandomAreWrittenByEnd : Prop :=
  ∀ (s t : State) (e : Edge) (rest : List Edge), s.edges = e :: rest → step s = .next t →
    (e.rstN = false → t.tagged = false ∧ t.random = false)
      ∧ (e.accepts = true → decode e.cmd = .ok .endKey →
          (t.tagged = true ↔ s.keyLen ≠ 0 ∧ s.tState = .tag) ∧ (t.random = true ↔ s.keyLen = 0))
      ∧ (e.rstN = true → e.accepts = false ∨ decode e.cmd ≠ .ok .endKey →
          t.tagged = s.tagged ∧ t.random = s.random)

/-- 10_state.md R38: ILL is set by every accepted illegal word, no command clears it, only reset does. -/
def Obligations.IllIsSticky : Prop :=
  ∀ (s t : State) (e : Edge) (rest : List Edge), s.edges = e :: rest → step s = .next t →
    (e.rstN = false → t.ill = false)
      ∧ (e.rstN = true → t.ill = (s.ill || (e.accepts && !legalWord e.cmd)))

/-- 10_state.md R39: ROM_DATA is written by ROMRD with the entry it names and by reset with 0x0000, and keeps its value
across everything else. -/
def Obligations.RomDataIsWrittenByRomrd : Prop :=
  ∀ (s t : State) (e : Edge) (rest : List Edge), s.edges = e :: rest → step s = .next t →
    (e.rstN = false → t.romData = 0x0000#16)
      ∧ (∀ i, e.accepts = true → decode e.cmd = .ok (.romrd i) → t.romData = rom i)
      ∧ (e.rstN = true → (e.accepts = false ∨ ∀ i, decode e.cmd ≠ .ok (.romrd i)) → t.romData = s.romData)

/-- 10_state.md section 3 (R37): START clears LEN_SAT, a BYTE at KEY_LEN = SATMAX sets it, any other BYTE and every
other command leave it, and it stays 1 until START or reset. -/
def Obligations.LenSatRecordsSaturation : Prop :=
  (∀ s t : State, exec .start s = .next t → t.lenSat = false)
    ∧ (∀ (b : Byte) (s t : State), exec (.byte b) s = .next t →
        (t.lenSat = true ↔ s.lenSat = true ∨ s.keyLen = satMax s.lenW))
    ∧ (∀ (s t : State) (e : Edge) (rest : List Edge), s.edges = e :: rest → step s = .next t → e.rstN = true →
        e.accepts = false ∨ decode e.cmd ≠ .ok .start → s.lenSat = true → t.lenSat = true)
    ∧ (∀ s : State, (resetRegisters s).lenSat = false)

/-- 10_state.md section 2 (the column "written by" of R26; R32): outside reset, each register changes only at an edge
that accepts a command of its column. -/
def Obligations.OnlyNamedCommandsWrite : Prop :=
  ∀ (s t : State) (e : Edge) (rest : List Edge), s.edges = e :: rest → e.rstN = true → step s = .next t →
    ((e.accepts = false ∨ (decode e.cmd ≠ .ok .start ∧ ∀ b, decode e.cmd ≠ .ok (.byte b))) →
        t.crcKey = s.crcKey ∧ t.crcTag = s.crcTag ∧ t.tState = s.tState ∧ t.keyLen = s.keyLen
          ∧ t.tagOpen = s.tagOpen ∧ t.tagLen = s.tagLen ∧ t.lenSat = s.lenSat)
      ∧ ((e.accepts = false
            ∨ (decode e.cmd ≠ .ok .start ∧ decode e.cmd ≠ .ok .endKey ∧ ∀ b, decode e.cmd ≠ .ok (.byte b))) →
          t.done = s.done)
      ∧ ((e.accepts = false ∨ decode e.cmd ≠ .ok .endKey) →
          t.slot = s.slot ∧ t.crcEff = s.crcEff ∧ t.effStart = s.effStart ∧ t.effLen = s.effLen
            ∧ t.tagged = s.tagged ∧ t.random = s.random)
      ∧ ((e.accepts = false ∨ ∀ i, decode e.cmd ≠ .ok (.romrd i)) → t.romData = s.romData)
      ∧ ((e.accepts = false ∨ legalWord e.cmd = true) → t.ill = s.ill)

/-- 10_state.md R33: STATUS, bit by bit; bit 7 reads 0; its value after reset; and TAGGED and RANDOM are never both 1
in a state that meets the invariant. -/
def Obligations.StatusShowsTheFlags : Prop :=
  (∀ s : State,
    (status s).getLsbD 0 = s.done ∧ (status s).getLsbD 1 = s.tagged ∧ (status s).getLsbD 2 = s.random
      ∧ (status s).getLsbD 3 = s.lenSat ∧ (status s).getLsbD 4 = s.ill
      ∧ (status s).extractLsb' 5 2 = s.tState.code ∧ (status s).getLsbD 7 = false)
    ∧ (∀ n : Nat, status (State.resetBuild n) = 0x00#8)
    ∧ (∀ s t : State, s.Inv → step s = .next t →
        ¬ ((status t).getLsbD 1 = true ∧ (status t).getLsbD 2 = true))

/-- 10_state.md section 1 (R23, R40): every registered output shows its register, whole, in a state whose registers fit
their widths (log 5). -/
def Obligations.PortsShowTheRegisters : Prop :=
  ∀ (s : State) (e : Edge), s.WidthsOk →
    (outputPorts s e).slotO = s.slot ∧ (outputPorts s e).crcEffO = s.crcEff
      ∧ (outputPorts s e).crcKeyO = s.crcKey ∧ (outputPorts s e).keyLenO.toNat = s.keyLen
      ∧ (outputPorts s e).effStartO.toNat = s.effStart ∧ (outputPorts s e).effLenO.toNat = s.effLen
      ∧ (outputPorts s e).romDataO = s.romData ∧ (outputPorts s e).statusO = status s

/-- 10_state.md R43: `rnd_take_o` is 1 exactly when the edge accepts 0x3000 while KEY_LEN is 0, and 0 in reset; and a
step consumes a value of `rnd` exactly then. -/
def Obligations.RndTakeMarksTheDraw : Prop :=
  (∀ (s : State) (e : Edge),
    ((outputPorts s e).rndTakeO = true
        ↔ e.rstN = true ∧ e.cmdValid = true ∧ e.ready = true ∧ e.cmd = 0x3000#16 ∧ s.keyLen = 0)
      ∧ (e.rstN = false → (outputPorts s e).rndTakeO = false))
    ∧ (∀ (s t : State) (e : Edge) (rest : List Edge), s.edges = e :: rest → step s = .next t →
        t.draws = if (outputPorts s e).rndTakeO = true then s.draws + 1 else s.draws)

/-! ### The CRC engine -/

/-- 40_crc_engine.md section 1 (R72, R73): the ROM the model reads, generated by the shift loop, holds the 256 listed
values, each at its index. -/
def Obligations.RomHoldsTheListedEntries : Prop :=
  listedRom.length = 256 ∧ ∀ i : Byte, listedRom[i.toNat]? = some (rom i)

/-- 40_crc_engine.md R74: the byte update is the source's formula
`table[((crc >> 8) ^ byte) & 0xFF] ^ (crc << 8)`, masked to 16 bits. -/
def Obligations.ByteUpdateIsTheTableFormula : Prop :=
  ∀ (c : Word) (b : Byte),
    (crcUpd c b).toNat
      = ((rom (BitVec.ofNat 8 (((c.toNat >>> 8) ^^^ b.toNat) &&& 0xFF))).toNat ^^^ (c.toNat <<< 8)) % 65536

/-- 40_crc_engine.md R75: the checksum of a byte string, from index 0 upward, from 0x0000, with no final exclusive-or;
and the check value. -/
def Obligations.ChecksumFoldsTheUpdate : Prop :=
  crc16 [] = 0x0000#16
    ∧ (∀ (s : List Byte) (b : Byte), crc16 (s ++ [b]) = crcUpd (crc16 s) b)
    ∧ crc16 checkKey = 0x31C3#16

/-- 40_crc_engine.md section 2 (R76): the bit-serial form gives the same checksum, for every byte string. -/
def Obligations.BitSerialFormAgrees : Prop :=
  ∀ s : List Byte, bitSerialCrc s = crc16 s

/-- 40_crc_engine.md section 2 (R76): the checksum is the remainder of `M(x) * x^16` divided by `P(x)` over GF(2). -/
def Obligations.ChecksumIsThePolynomialRemainder : Prop :=
  ∀ s : List Byte, bitsPoly (crc16 s) = (messagePoly s * Polynomial.X ^ 16) %ₘ crcPoly

/-- 40_crc_engine.md section 2 (R77): the laws of the CRC arithmetic. -/
def Obligations.CrcArithmeticLaws : Prop :=
  (∀ s : List Byte, crc16 (0x00#8 :: s) = crc16 s)
    ∧ (∀ a b : Byte, rom (a ^^^ b) = rom a ^^^ rom b)
    ∧ (∀ (c : Word) (b : Byte),
        crcUpd c b = crcUpd 0x0000#16 (highByte c ^^^ b) ^^^ (lowByte c ++ 0x00#8))
    ∧ (∀ v : Word, ∃ a b : Byte, crc16 [a, b] = v)
    ∧ (∀ a b c d : Byte, crc16 [a, b] = crc16 [c, d] → a = c ∧ b = d)
    ∧ (∀ i j : Byte, lowByte (rom i) = lowByte (rom j) → i = j)

/-! ### The effective key and the slot -/

/-- 41_hash_tag_extractor.md R80: `effectiveKey` by least indices. -/
def Obligations.EffectiveKeyByLeastBraces : Prop :=
  ∀ k : List Byte,
    ((∀ i : Nat, k[i]? ≠ some 0x7B#8) → effectiveKey k = { start := 0, len := k.length, tagged := false })
      ∧ (∀ s : Nat, k[s]? = some 0x7B#8 → (∀ i : Nat, i < s → k[i]? ≠ some 0x7B#8) →
          ((∀ j : Nat, s < j → k[j]? ≠ some 0x7D#8) →
              effectiveKey k = { start := 0, len := k.length, tagged := false })
            ∧ (∀ e : Nat, s < e → k[e]? = some 0x7D#8 → (∀ j : Nat, s < j → j < e → k[j]? ≠ some 0x7D#8) →
                (e = s + 1 → effectiveKey k = { start := 0, len := k.length, tagged := false })
                  ∧ (e ≠ s + 1 → effectiveKey k = { start := s + 1, len := e - s - 1, tagged := true })))
      ∧ effectiveBytes k
          = (k.drop (effectiveKey k).start).take (effectiveKey k).len

/-- 41_hash_tag_extractor.md R81, R82: only the first open brace and the first close brace after it decide; what stands
before, after or inside is irrelevant; an empty pair leaves the whole key, whatever follows; and the rules' examples
`foo(open)(open)bar(close)(close)zap`, `(open)(close)(open)foo(close)` and `x(open)(close)y(open)z(close)`. -/
def Obligations.OnlyTheFirstPairDecides : Prop :=
  (∀ pre tag post : List Byte, 0x7B#8 ∉ pre → 0x7D#8 ∉ tag → tag ≠ [] →
    effectiveBytes (pre ++ 0x7B#8 :: (tag ++ 0x7D#8 :: post)) = tag
      ∧ (effectiveKey (pre ++ 0x7B#8 :: (tag ++ 0x7D#8 :: post))).tagged = true)
    ∧ (∀ pre post : List Byte, 0x7B#8 ∉ pre →
        effectiveBytes (pre ++ 0x7B#8 :: 0x7D#8 :: post) = pre ++ 0x7B#8 :: 0x7D#8 :: post
          ∧ (effectiveKey (pre ++ 0x7B#8 :: 0x7D#8 :: post)).tagged = false)
    ∧ effectiveKey [0x66#8, 0x6F#8, 0x6F#8, 0x7B#8, 0x7B#8, 0x62#8, 0x61#8, 0x72#8, 0x7D#8, 0x7D#8, 0x7A#8, 0x61#8,
        0x70#8] = { start := 4, len := 4, tagged := true }
    ∧ effectiveBytes [0x7B#8, 0x7D#8, 0x7B#8, 0x66#8, 0x6F#8, 0x6F#8, 0x7D#8]
        = [0x7B#8, 0x7D#8, 0x7B#8, 0x66#8, 0x6F#8, 0x6F#8, 0x7D#8]
    ∧ effectiveBytes [0x78#8, 0x7B#8, 0x7D#8, 0x79#8, 0x7B#8, 0x7A#8, 0x7D#8]
        = [0x78#8, 0x7B#8, 0x7D#8, 0x79#8, 0x7B#8, 0x7A#8, 0x7D#8]

/-- 41_hash_tag_extractor.md section 1 (R83) and section 2 (R84): the laws of `effectiveKey`, and TSTATE of a key is
TAG exactly when its effective key is a tag. -/
def Obligations.EffectiveKeyLaws : Prop :=
  ∀ k : List Byte,
    (effectiveKey k).start + (effectiveKey k).len ≤ k.length
      ∧ ((effectiveKey k).tagged = true →
          1 ≤ (effectiveKey k).len ∧ 1 ≤ (effectiveKey k).start ∧ 0x7D#8 ∉ effectiveBytes k)
      ∧ ((effectiveKey k).tagged = false → (effectiveKey k).start = 0 ∧ (effectiveKey k).len = k.length)
      ∧ (effectiveBytes k = [] ↔ k = [])
      ∧ (effectiveBytes k).length = (effectiveKey k).len
      ∧ (scanStateOf k = .tag ↔ (effectiveKey k).tagged = true)

/-- 42_slot_resolver.md section 1 (R90): the reduction modulo 16384 is the low 14 bits, and exactly four checksums map
to each slot. -/
def Obligations.ReductionKeepsTheLowBits : Prop :=
  (∀ c : Word, (slotOfCrc c).toNat = c.toNat % 16384)
    ∧ (∀ c d : Word, slotOfCrc c = slotOfCrc d ↔
        d = c ∨ d = c + 0x4000#16 ∨ d = c + 0x8000#16 ∨ d = c + 0xC000#16)

/-- 42_slot_resolver.md R89 and section 4 (R96): `Slot` is below 16384; on a non-empty key it is the checksum of the
effective key modulo 16384 whatever the draw; keys with equal effective keys have equal slots; on the empty key it is
the draw; and the reference vector. -/
def Obligations.SlotFunctionProperties : Prop :=
  (∀ (k : List Byte) (r : SlotNo), slotFunction k r < 16384)
    ∧ (∀ (k : List Byte) (r : SlotNo), k ≠ [] → slotFunction k r = (crc16 (effectiveBytes k)).toNat % 16384)
    ∧ (∀ (a b : List Byte) (r r' : SlotNo), a ≠ [] → b ≠ [] → effectiveBytes a = effectiveBytes b →
        slotFunction a r = slotFunction b r')
    ∧ (∀ r : SlotNo, slotFunction [] r = r.toNat)
    ∧ (∀ r : SlotNo, slotFunction checkKey r = 12739)

/-! ### Invariants -/

/-- Every step keeps the invariant of the register set: widths, the agreement of the accumulators, the agreement of the
results, and results that match the accumulators while DONE is 1 (10_state.md sections 2 and 3,
41_hash_tag_extractor.md sections 2 and 3). -/
def Obligations.StepKeepsTheInvariant : Prop :=
  ∀ s t : State, s.Inv → step s = .next t → t.Inv

/-- The invariant holds after reset, in a build of any legal LEN_W. -/
def Obligations.ResetMeetsTheInvariant : Prop :=
  (∀ n : Nat, 1 ≤ n → (State.resetBuild n).Inv) ∧ State.reset.Inv

/-- A reset edge establishes the invariant from any state of a legal build (70_reset_and_hazards.md section 1, R122:
before the first reset the registers hold anything). -/
def Obligations.ResetEdgeEstablishesTheInvariant : Prop :=
  ∀ (s : State) (e : Edge) (rest : List Edge), 1 ≤ s.lenW → s.edges = e :: rest → e.rstN = false →
    ∃ t, step s = .next t ∧ t.Inv ∧ t.Tracks []

/-- 41_hash_tag_extractor.md section 3 (R88), 10_state.md section 3 (R34), 43_control.md section 3 (R102): whatever
happens at the next edge, the registers track the key made of the bytes since the last START or reset, exactly at any
length but for the saturating positions. -/
def Obligations.StepTracksTheKey : Prop :=
  (∀ (k : List Byte) (s t : State), s.Tracks k → step s = .next t → t.Tracks (keyAfterStep s k))
    ∧ (∀ n : Nat, 1 ≤ n → (State.resetBuild n).Tracks [])

/-- 00_scope.md section 4 (R7, R12): no command and no edge changes the build's LEN_W. That it is a field of the state,
and that the reset state has the default 32, is the model's choice (log 1). -/
def Obligations.BuildWidthIsFixed : Prop :=
  (∀ (i : Instr) (s t : State), exec i s = .next t → t.lenW = s.lenW)
    ∧ (∀ s t : State, step s = .next t → t.lenW = s.lenW)
    ∧ (∀ n : Nat, (State.resetBuild n).lenW = n)
    ∧ State.reset = State.resetBuild 32

/-- 41_hash_tag_extractor.md R87: KEY_LEN and TAG_LEN count by one per qualifying byte and stop at SATMAX; they never
wrap; no command but START makes one smaller; TAG_OPEN is at most SATMAX, and it and TAG_LEN at most KEY_LEN; LEN_SAT
records a byte that arrived at SATMAX; and while LEN_SAT is 0 all three are exact. -/
def Obligations.CountersSaturate : Prop :=
  (∀ (s t : State) (b : Byte), s.WidthsOk → exec (.byte b) s = .next t →
    t.keyLen = (if s.keyLen = satMax s.lenW then satMax s.lenW else s.keyLen + 1)
      ∧ t.tagLen
          = (if s.tState = .opened ∧ b ≠ 0x7D#8 then
              (if s.tagLen = satMax s.lenW then satMax s.lenW else s.tagLen + 1)
            else s.tagLen)
      ∧ (t.lenSat = true ↔ s.lenSat = true ∨ s.keyLen = satMax s.lenW)
      ∧ t.tagOpen ≤ satMax s.lenW)
    ∧ (∀ (i : Instr) (s t : State), i ≠ .start → s.WidthsOk → exec i s = .next t →
        s.keyLen ≤ t.keyLen ∧ s.tagLen ≤ t.tagLen)
    ∧ (∀ (s : State) (k : List Byte), s.Tracks k →
        s.tagLen ≤ s.keyLen ∧ s.tagOpen ≤ s.keyLen
          ∧ (s.lenSat = true ↔ satMax s.lenW < k.length)
          ∧ (s.lenSat = false →
              s.keyLen = k.length ∧ s.tagLen = (candidateTag k).length ∧ ∀ i, firstOpen k = some i → s.tagOpen = i))

/-! ### Runs -/

/-- 20_memory.md section 5 (R58): commands take effect in acceptance order. Of two edges that accept commands, the second
step runs the second command on the state the first command left; a command after an illegal word runs on the state that
word left; and what the first edge does to the block does not depend on the edges behind it. (The list of edges is the
model's form of the ports, log 2.) -/
def Obligations.CommandsTakeEffectInOrder : Prop :=
  (∀ (s t : State) (e f : Edge) (rest : List Edge) (i j : Instr), s.edges = e :: f :: rest →
    e.accepts = true → f.accepts = true → decode e.cmd = .ok i → decode f.cmd = .ok j →
    exec i { s with edges := f :: rest, rnd := e.rnd } = .next t →
      step s = .next t ∧ step t = exec j { t with edges := rest, rnd := f.rnd })
    ∧ (∀ (s : State) (e f : Edge) (rest : List Edge) (j : Instr), s.edges = e :: f :: rest →
        e.accepts = true → f.accepts = true → legalWord e.cmd = false → decode f.cmd = .ok j →
          ∃ t, step s = .next t ∧ step t = exec j { s with ill := true, edges := rest, rnd := f.rnd })
    ∧ (∀ (s : State) (e : Edge) (later later' : List Edge),
        ∃ t u, step { s with edges := e :: later } = .next t ∧ step { s with edges := e :: later' } = .next u
          ∧ t.block = u.block)

/-- 10_state.md section 5 (R44), 70_reset_and_hazards.md section 3 (R126): over edges without reset, the registers end
as the accepted words alone leave them; how long `cmd_ready` or `cmd_valid` was 0 in between changes nothing, and a word
that is not accepted has no effect. -/
def Obligations.StallsChangeNoResult : Prop :=
  ∀ (es : List Edge) (s : State), (∀ e ∈ es, e.rstN = true) →
    ∃ t u, runSteps es.length { s with edges := es } = .next t
      ∧ runAccepted (acceptedWords es) s = .next u ∧ t.block = u.block

/-- 43_control.md section 3 (R101): START, the bytes of `k`, END, with `r` on `rnd` at the END, and NOP, ROMRD and
illegal words interleaved anywhere, compute the source's `Slot(k, r)` from any state of a legal build, with all of the
rule's other registers. -/
def Obligations.KeySequenceComputesSlot : Prop :=
  ∀ (s : State) (k : List Byte) (r : SlotNo) (ws : List (Word × SlotNo)), 1 ≤ s.lenW →
    (keyCommands ws).map Prod.fst = slotWords k → (keyCommands ws).getLast?.map Prod.snd = some r →
      ∃ t, runAccepted ws s = .next t
        ∧ t.done = true ∧ t.crcKey = crc16 k ∧ t.slot.toNat = slotFunction k r
        ∧ (k = [] → t.slot = r ∧ t.random = true ∧ t.tagged = false ∧ t.crcEff = 0x0000#16 ∧ t.effStart = 0
            ∧ t.effLen = 0)
        ∧ (k ≠ [] → t.tagged = (effectiveKey k).tagged ∧ t.random = false
            ∧ t.crcEff = crc16 (effectiveBytes k) ∧ t.slot = slotOfCrc (crc16 (effectiveBytes k)))
        ∧ (k ≠ [] → k.length ≤ satMax s.lenW →
            t.effStart = (effectiveKey k).start ∧ t.effLen = (effectiveKey k).len ∧ t.keyLen = k.length
              ∧ t.lenSat = false)
        ∧ t.romData = romDataAfter ws s.romData
        ∧ t.ill = (s.ill || anyIllegal ws)

/-- 42_slot_resolver.md section 4 (R97): the results of END on a non-empty key depend on the key bytes since the last
START alone: not on the state before, on the values of `rnd`, or on NOP, ROMRD and illegal words in between. -/
def Obligations.ResultsDependOnTheKeyAlone : Prop :=
  ∀ (s s' : State) (k : List Byte) (ws ws' : List (Word × SlotNo)), 1 ≤ s.lenW → s'.lenW = s.lenW → k ≠ [] →
    (keyCommands ws).map Prod.fst = slotWords k → (keyCommands ws').map Prod.fst = slotWords k →
      ∃ t t', runAccepted ws s = .next t ∧ runAccepted ws' s' = .next t'
        ∧ t.slot = t'.slot ∧ t.crcEff = t'.crcEff ∧ t.effStart = t'.effStart ∧ t.effLen = t'.effLen
        ∧ t.tagged = t'.tagged ∧ t.random = t'.random ∧ t.done = t'.done

/-- 43_control.md R102: `START; KEY k1; END; KEY k2; END` leaves the registers that `SLOT` of `k1 · k2` would leave,
and the first END reports `k1`. -/
def Obligations.EndDoesNotEndTheKey : Prop :=
  ∀ (s : State) (k1 k2 : List Byte) (us vs ws : List (Word × SlotNo)), 1 ≤ s.lenW → k1 ++ k2 ≠ [] →
    us.map Prod.fst = slotWords k1 → vs.map Prod.fst = keyWords k2 ++ [0x3000#16] →
    ws.map Prod.fst = slotWords (k1 ++ k2) →
      ∃ t1 t2 u, runAccepted us s = .next t1 ∧ t1.Describes k1 ∧ runAccepted (us ++ vs) s = .next t2
        ∧ runAccepted ws s = .next u ∧ t2.block = u.block

/-- 20_memory.md section 3 (R55): END on a non-empty key is idempotent; END on an empty key is not: each one writes its
own draw. -/
def Obligations.EndIsIdempotentOnANonEmptyKey : Prop :=
  (∀ (s : State) (r r' : SlotNo), s.keyLen ≠ 0 →
    ∃ t u, runAccepted [(0x3000#16, r)] s = .next t ∧ runAccepted [(0x3000#16, r), (0x3000#16, r')] s = .next u
      ∧ u.block = t.block)
    ∧ (∀ (s : State) (r r' : SlotNo), s.keyLen = 0 →
        ∃ t u, runAccepted [(0x3000#16, r)] s = .next t ∧ runAccepted [(0x3000#16, r), (0x3000#16, r')] s = .next u
          ∧ t.slot = r ∧ u.slot = r' ∧ u.draws = s.draws + 2)

/-! ### The assembly language -/

/-- 30_encoding.md section 5 (R71): the disassembler's text of every word assembles to that word. (How many digits the
disassembler prints, and their case, is the model's choice, log 8.) -/
def Obligations.DisassemblyAssemblesBack : Prop :=
  ∀ w : Word, assembleText (disassemble w) = .ok [w]

/-- 30_encoding.md section 5: the expansions of KEY, SLOT and .word, the disassembler's output, that no line but .word
writes an illegal word, and the example. That the disassembler prints an operand as 0x with two, and a raw word as 0x with
four, hexadecimal digits in upper case (the clauses with `hexByte` and `hexWord`) is the model's choice, log 8; the rule
asks for the mnemonic and operand, and for `.word 0xNNNN ; illegal`. -/
def Obligations.PseudoInstructionsExpand : Prop :=
  (∀ s : List Byte, assembleLine (.key s) = .ok (s.map (fun b => 0x2000#16 ||| b.setWidth 16)))
    ∧ assembleLine (.key []) = .ok []
    ∧ (∀ s : List Byte, assembleLine (.slot s)
        = .ok ([0x1000#16] ++ s.map (fun b => 0x2000#16 ||| b.setWidth 16) ++ [0x3000#16]))
    ∧ (∀ w : Word, assembleLine (.word w.toNat) = .ok [w])
    ∧ disassemble 0x0000#16 = "NOP".toList ∧ disassemble 0x1000#16 = "START".toList
    ∧ disassemble 0x3000#16 = "END".toList
    ∧ (∀ b : Byte, disassemble (0x2000#16 ||| b.setWidth 16) = "BYTE ".toList ++ hexByte b)
    ∧ (∀ i : Byte, disassemble (0x4000#16 ||| i.setWidth 16) = "ROMRD ".toList ++ hexByte i)
    ∧ (∀ w : Word, legalWord w = false →
        disassemble w = ".word ".toList ++ hexWord w ++ " ; illegal".toList)
    ∧ (∀ (l : SourceLine) (ws : List Word), (∀ n, l ≠ .word n) → assembleLine l = .ok ws →
        ∀ w ∈ ws, legalWord w = true)
    ∧ assembleText ("SLOT \"a".toList ++ [Char.ofNat 0x7B, 'b', Char.ofNat 0x7D, '"'])
        = .ok [0x1000#16, 0x2061#16, 0x207B#16, 0x2062#16, 0x207D#16, 0x3000#16]
    ∧ assembleText "KEY \"\"".toList = .ok []
    ∧ assembleText ".word 0x5000 ; illegal".toList = .ok [0x5000#16]

/-- 30_encoding.md section 5 (R70): an operand outside 0 to 255 is an assembly error and is not wrapped, one inside is
used as it is; and the rule's examples and forms, in upper and lower case. -/
def Obligations.OperandRangeIsAnAssemblyError : Prop :=
  (∀ n : Nat, 255 < n →
    assembleLine (.byte n) = .error .outOfRange ∧ assembleLine (.romrd n) = .error .outOfRange)
    ∧ (∀ n : Nat, n ≤ 255 →
        assembleLine (.byte n) = .ok [BitVec.ofNat 16 (0x2000 + n)]
          ∧ assembleLine (.romrd n) = .ok [BitVec.ofNat 16 (0x4000 + n)])
    ∧ assembleText ['B', 'Y', 'T', 'E', ' ', '\'', Char.ofNat 0x7B, '\''] = .ok [0x207B#16]
    ∧ assembleText "BYTE 0xFF".toList = .ok [0x20FF#16]
    ∧ assembleText "byte 65 ; a letter".toList = .ok [0x2041#16]
    ∧ assembleText "BYTE '\\x80'".toList = .ok [0x2080#16]
    ∧ assembleText "ROMRD 1".toList = .ok [0x4001#16]
    ∧ assembleText "BYTE 256".toList = .error .outOfRange
end

