-- ==== Sys2Proof/Laws/Crc.lean ====
section
/-! SUPPORT. The CRC engine's shift register is linear over exclusive-or; the halves of a 16-bit value. -/

namespace Sys2Proof.Machine

theorem highByte_toNat (c : Word) : (highByte c).toNat = c.toNat / 256 := by
  have := c.isLt
  simp [highByte, Nat.shiftRight_eq_div_pow]; omega

theorem lowByte_append_toNat (c : Word) : (lowByte c ++ 0x00#8).toNat = c.toNat * 256 % 65536 := by
  rw [BitVec.toNat_append]; simp [lowByte, Nat.shiftLeft_eq]; omega

theorem crcShift_xor (a b : Word) : crcShift (a ^^^ b) = crcShift a ^^^ crcShift b := by
  have hm : (a ^^^ b).msb = (a.msb ^^ b.msb) := by simp
  unfold crcShift
  rw [hm, BitVec.shiftLeft_xor_distrib]
  cases a.msb <;> cases b.msb <;>
    simp only [Bool.xor_false, Bool.xor_true, Bool.not_true, Bool.not_false, Bool.false_eq_true, if_true, if_false] <;>
    (apply BitVec.eq_of_getLsbD_eq; intro i _; simp only [BitVec.getLsbD_xor]
     cases (a <<< 1).getLsbD i <;> cases (b <<< 1).getLsbD i <;> cases poly.getLsbD i <;> rfl)

theorem crcShift8_xor (a b : Word) : crcShift8 (a ^^^ b) = crcShift8 a ^^^ crcShift8 b := by
  simp only [crcShift8, crcShift_xor]

theorem append_zero_xor (a b : Byte) : (a ^^^ b) ++ 0x00#8 = (a ++ 0x00#8) ^^^ (b ++ 0x00#8) := by
  apply BitVec.eq_of_getLsbD_eq; intro i _
  simp only [BitVec.getLsbD_xor, BitVec.getLsbD_append]; split <;> simp

end Sys2Proof.Machine
end

