-- ==== Sys2Proof/Laws/Decode.lean ====
section
/-! SUPPORT. The fields of a command word as numbers, and how packing and taking apart fit together. -/

namespace Sys2Proof

theorem fieldOp_toNat (w : Word) : (fieldOp w).toNat = w.toNat / 4096 := by
  have := w.isLt
  simp [fieldOp, Nat.shiftRight_eq_div_pow]; omega

theorem fieldRsv_toNat (w : Word) : (fieldRsv w).toNat = w.toNat / 256 % 16 := by
  simp [fieldRsv, Nat.shiftRight_eq_div_pow]

theorem fieldImm8_toNat (w : Word) : (fieldImm8 w).toNat = w.toNat % 256 := by
  simp [fieldImm8]

theorem packWord_toNat (op : BitVec 4) (b : Byte) : (packWord op b).toNat = op.toNat * 4096 + b.toNat := by
  have hop := op.isLt
  have hb := b.isLt
  simp only [packWord, BitVec.toNat_append, BitVec.toNat_ofNat]
  rw [← Nat.shiftLeft_add_eq_or_of_lt (by omega), ← Nat.shiftLeft_add_eq_or_of_lt (by omega)]
  simp only [Nat.shiftLeft_eq]; omega

theorem fieldRsv_packWord (op : BitVec 4) (b : Byte) : fieldRsv (packWord op b) = 0#4 := by
  apply BitVec.eq_of_toNat_eq
  have := b.isLt
  rw [fieldRsv_toNat, packWord_toNat]; simp; omega

theorem fieldOp_packWord (op : BitVec 4) (b : Byte) : fieldOp (packWord op b) = op := by
  apply BitVec.eq_of_toNat_eq
  have := b.isLt
  rw [fieldOp_toNat, packWord_toNat]; omega

theorem fieldImm8_packWord (op : BitVec 4) (b : Byte) : fieldImm8 (packWord op b) = b := by
  apply BitVec.eq_of_toNat_eq
  have := b.isLt
  rw [fieldImm8_toNat, packWord_toNat]; omega

/-- A word with `RSV = 0` is made of its other two fields. -/
theorem packWord_fields {w : Word} (h : fieldRsv w = 0#4) : packWord (fieldOp w) (fieldImm8 w) = w := by
  have h' := congrArg BitVec.toNat h
  rw [fieldRsv_toNat] at h'
  apply BitVec.eq_of_toNat_eq
  rw [packWord_toNat, fieldOp_toNat, fieldImm8_toNat]
  simp at h'; omega

/-- `Decode` by the numbers of the fields. -/
theorem decode_toNat (w : Word) :
    decode w =
      if w.toNat / 256 % 16 ≠ 0 then .error .reservedBits
      else if w.toNat / 4096 = 0 then
        if w.toNat % 256 = 0 then .ok .nop else .error .operandNotZero
      else if w.toNat / 4096 = 1 then
        if w.toNat % 256 = 0 then .ok .start else .error .operandNotZero
      else if w.toNat / 4096 = 2 then .ok (.byte (fieldImm8 w))
      else if w.toNat / 4096 = 3 then
        if w.toNat % 256 = 0 then .ok .endKey else .error .operandNotZero
      else if w.toNat / 4096 = 4 then .ok (.romrd (fieldImm8 w))
      else .error .reservedOpcode := by
  simp only [decode, ← BitVec.toNat_inj, fieldOp_toNat, fieldRsv_toNat, fieldImm8_toNat, BitVec.toNat_ofNat, ne_eq]

/-- A word is legal exactly when it spells one of the five rows. -/
theorem legalWord_toNat (w : Word) :
    legalWord w = decide (w.toNat = 0 ∨ w.toNat = 4096 ∨ w.toNat / 256 = 32 ∨ w.toNat = 12288 ∨ w.toNat / 256 = 64) := by
  have hw := w.isLt
  unfold legalWord
  split
  · rename_i h
    rw [decode_toNat] at h
    refine (decide_eq_true ?_).symm
    repeat' split at h
    all_goals first | (cases h; done) | omega
  · rename_i h
    rw [decode_toNat] at h
    refine (decide_eq_false ?_).symm
    repeat' split at h
    all_goals first | omega | cases h

/-- The mask of the rows BYTE and ROMRD clears the low byte. -/
theorem and_highMask (w : Word) : w &&& 0xFF00#16 = (w >>> 8) <<< 8 := by
  apply BitVec.eq_of_getLsbD_eq
  intro i hi
  interval_cases i <;> simp

theorem and_highMask_toNat (w : Word) : (w &&& 0xFF00#16).toNat = w.toNat / 256 * 256 := by
  have := w.isLt
  rw [and_highMask]; simp [Nat.shiftLeft_eq, Nat.shiftRight_eq_div_pow]; omega

end Sys2Proof
end

