-- ==== Sys2Proof/Laws/State.lean ====
section
/-! SUPPORT. The small lemmas of the register operations: one per field per update, each true by `rfl`, so that no
proof unfolds a record update. -/

namespace Sys2Proof.Machine

variable (s : State) (v w : Word) (a : SlotNo) (c : Word) (p n : Nat) (t r : Bool) (b : Byte)

/-! ### Clearing the accumulators -/

@[simp] theorem clearAccumulators_crcKey : (clearAccumulators s).crcKey = crcInit := rfl
@[simp] theorem clearAccumulators_crcTag : (clearAccumulators s).crcTag = crcInit := rfl
@[simp] theorem clearAccumulators_tState : (clearAccumulators s).tState = .scan := rfl
@[simp] theorem clearAccumulators_keyLen : (clearAccumulators s).keyLen = 0 := rfl
@[simp] theorem clearAccumulators_tagOpen : (clearAccumulators s).tagOpen = 0 := rfl
@[simp] theorem clearAccumulators_tagLen : (clearAccumulators s).tagLen = 0 := rfl
@[simp] theorem clearAccumulators_lenSat : (clearAccumulators s).lenSat = false := rfl
@[simp] theorem clearAccumulators_done : (clearAccumulators s).done = false := rfl
@[simp] theorem clearAccumulators_slot : (clearAccumulators s).slot = s.slot := rfl
@[simp] theorem clearAccumulators_crcEff : (clearAccumulators s).crcEff = s.crcEff := rfl
@[simp] theorem clearAccumulators_effStart : (clearAccumulators s).effStart = s.effStart := rfl
@[simp] theorem clearAccumulators_effLen : (clearAccumulators s).effLen = s.effLen := rfl
@[simp] theorem clearAccumulators_tagged : (clearAccumulators s).tagged = s.tagged := rfl
@[simp] theorem clearAccumulators_random : (clearAccumulators s).random = s.random := rfl
@[simp] theorem clearAccumulators_romData : (clearAccumulators s).romData = s.romData := rfl
@[simp] theorem clearAccumulators_ill : (clearAccumulators s).ill = s.ill := rfl
@[simp] theorem clearAccumulators_lenW : (clearAccumulators s).lenW = s.lenW := rfl
@[simp] theorem clearAccumulators_rnd : (clearAccumulators s).rnd = s.rnd := rfl
@[simp] theorem clearAccumulators_draws : (clearAccumulators s).draws = s.draws := rfl
@[simp] theorem clearAccumulators_edges : (clearAccumulators s).edges = s.edges := rfl

/-! ### Reset -/

@[simp] theorem resetRegisters_crcKey : (resetRegisters s).crcKey = 0x0000#16 := rfl
@[simp] theorem resetRegisters_crcTag : (resetRegisters s).crcTag = 0x0000#16 := rfl
@[simp] theorem resetRegisters_tState : (resetRegisters s).tState = .scan := rfl
@[simp] theorem resetRegisters_keyLen : (resetRegisters s).keyLen = 0 := rfl
@[simp] theorem resetRegisters_tagOpen : (resetRegisters s).tagOpen = 0 := rfl
@[simp] theorem resetRegisters_tagLen : (resetRegisters s).tagLen = 0 := rfl
@[simp] theorem resetRegisters_lenSat : (resetRegisters s).lenSat = false := rfl
@[simp] theorem resetRegisters_done : (resetRegisters s).done = false := rfl
@[simp] theorem resetRegisters_slot : (resetRegisters s).slot = 0x0000#14 := rfl
@[simp] theorem resetRegisters_crcEff : (resetRegisters s).crcEff = 0x0000#16 := rfl
@[simp] theorem resetRegisters_effStart : (resetRegisters s).effStart = 0 := rfl
@[simp] theorem resetRegisters_effLen : (resetRegisters s).effLen = 0 := rfl
@[simp] theorem resetRegisters_tagged : (resetRegisters s).tagged = false := rfl
@[simp] theorem resetRegisters_random : (resetRegisters s).random = false := rfl
@[simp] theorem resetRegisters_romData : (resetRegisters s).romData = 0x0000#16 := rfl
@[simp] theorem resetRegisters_ill : (resetRegisters s).ill = false := rfl
@[simp] theorem resetRegisters_lenW : (resetRegisters s).lenW = s.lenW := rfl
@[simp] theorem resetRegisters_rnd : (resetRegisters s).rnd = s.rnd := rfl
@[simp] theorem resetRegisters_draws : (resetRegisters s).draws = s.draws := rfl
@[simp] theorem resetRegisters_edges : (resetRegisters s).edges = s.edges := rfl

/-! ### The one exception -/

@[simp] theorem raiseIllegalCommand_crcKey : (raiseIllegalCommand s).crcKey = s.crcKey := rfl
@[simp] theorem raiseIllegalCommand_crcTag : (raiseIllegalCommand s).crcTag = s.crcTag := rfl
@[simp] theorem raiseIllegalCommand_tState : (raiseIllegalCommand s).tState = s.tState := rfl
@[simp] theorem raiseIllegalCommand_keyLen : (raiseIllegalCommand s).keyLen = s.keyLen := rfl
@[simp] theorem raiseIllegalCommand_tagOpen : (raiseIllegalCommand s).tagOpen = s.tagOpen := rfl
@[simp] theorem raiseIllegalCommand_tagLen : (raiseIllegalCommand s).tagLen = s.tagLen := rfl
@[simp] theorem raiseIllegalCommand_lenSat : (raiseIllegalCommand s).lenSat = s.lenSat := rfl
@[simp] theorem raiseIllegalCommand_done : (raiseIllegalCommand s).done = s.done := rfl
@[simp] theorem raiseIllegalCommand_slot : (raiseIllegalCommand s).slot = s.slot := rfl
@[simp] theorem raiseIllegalCommand_crcEff : (raiseIllegalCommand s).crcEff = s.crcEff := rfl
@[simp] theorem raiseIllegalCommand_effStart : (raiseIllegalCommand s).effStart = s.effStart := rfl
@[simp] theorem raiseIllegalCommand_effLen : (raiseIllegalCommand s).effLen = s.effLen := rfl
@[simp] theorem raiseIllegalCommand_tagged : (raiseIllegalCommand s).tagged = s.tagged := rfl
@[simp] theorem raiseIllegalCommand_random : (raiseIllegalCommand s).random = s.random := rfl
@[simp] theorem raiseIllegalCommand_romData : (raiseIllegalCommand s).romData = s.romData := rfl
@[simp] theorem raiseIllegalCommand_ill : (raiseIllegalCommand s).ill = true := rfl
@[simp] theorem raiseIllegalCommand_lenW : (raiseIllegalCommand s).lenW = s.lenW := rfl
@[simp] theorem raiseIllegalCommand_rnd : (raiseIllegalCommand s).rnd = s.rnd := rfl
@[simp] theorem raiseIllegalCommand_draws : (raiseIllegalCommand s).draws = s.draws := rfl
@[simp] theorem raiseIllegalCommand_edges : (raiseIllegalCommand s).edges = s.edges := rfl

/-! ### The ROM read register -/

@[simp] theorem writeRomData_crcKey : (writeRomData v s).crcKey = s.crcKey := rfl
@[simp] theorem writeRomData_crcTag : (writeRomData v s).crcTag = s.crcTag := rfl
@[simp] theorem writeRomData_tState : (writeRomData v s).tState = s.tState := rfl
@[simp] theorem writeRomData_keyLen : (writeRomData v s).keyLen = s.keyLen := rfl
@[simp] theorem writeRomData_tagOpen : (writeRomData v s).tagOpen = s.tagOpen := rfl
@[simp] theorem writeRomData_tagLen : (writeRomData v s).tagLen = s.tagLen := rfl
@[simp] theorem writeRomData_lenSat : (writeRomData v s).lenSat = s.lenSat := rfl
@[simp] theorem writeRomData_done : (writeRomData v s).done = s.done := rfl
@[simp] theorem writeRomData_slot : (writeRomData v s).slot = s.slot := rfl
@[simp] theorem writeRomData_crcEff : (writeRomData v s).crcEff = s.crcEff := rfl
@[simp] theorem writeRomData_effStart : (writeRomData v s).effStart = s.effStart := rfl
@[simp] theorem writeRomData_effLen : (writeRomData v s).effLen = s.effLen := rfl
@[simp] theorem writeRomData_tagged : (writeRomData v s).tagged = s.tagged := rfl
@[simp] theorem writeRomData_random : (writeRomData v s).random = s.random := rfl
@[simp] theorem writeRomData_romData : (writeRomData v s).romData = v := rfl
@[simp] theorem writeRomData_ill : (writeRomData v s).ill = s.ill := rfl
@[simp] theorem writeRomData_lenW : (writeRomData v s).lenW = s.lenW := rfl
@[simp] theorem writeRomData_rnd : (writeRomData v s).rnd = s.rnd := rfl
@[simp] theorem writeRomData_draws : (writeRomData v s).draws = s.draws := rfl
@[simp] theorem writeRomData_edges : (writeRomData v s).edges = s.edges := rfl

/-! ### Consuming a draw -/

@[simp] theorem consumeDraw_crcKey : (consumeDraw s).crcKey = s.crcKey := rfl
@[simp] theorem consumeDraw_crcTag : (consumeDraw s).crcTag = s.crcTag := rfl
@[simp] theorem consumeDraw_tState : (consumeDraw s).tState = s.tState := rfl
@[simp] theorem consumeDraw_keyLen : (consumeDraw s).keyLen = s.keyLen := rfl
@[simp] theorem consumeDraw_tagOpen : (consumeDraw s).tagOpen = s.tagOpen := rfl
@[simp] theorem consumeDraw_tagLen : (consumeDraw s).tagLen = s.tagLen := rfl
@[simp] theorem consumeDraw_lenSat : (consumeDraw s).lenSat = s.lenSat := rfl
@[simp] theorem consumeDraw_done : (consumeDraw s).done = s.done := rfl
@[simp] theorem consumeDraw_slot : (consumeDraw s).slot = s.slot := rfl
@[simp] theorem consumeDraw_crcEff : (consumeDraw s).crcEff = s.crcEff := rfl
@[simp] theorem consumeDraw_effStart : (consumeDraw s).effStart = s.effStart := rfl
@[simp] theorem consumeDraw_effLen : (consumeDraw s).effLen = s.effLen := rfl
@[simp] theorem consumeDraw_tagged : (consumeDraw s).tagged = s.tagged := rfl
@[simp] theorem consumeDraw_random : (consumeDraw s).random = s.random := rfl
@[simp] theorem consumeDraw_romData : (consumeDraw s).romData = s.romData := rfl
@[simp] theorem consumeDraw_ill : (consumeDraw s).ill = s.ill := rfl
@[simp] theorem consumeDraw_lenW : (consumeDraw s).lenW = s.lenW := rfl
@[simp] theorem consumeDraw_rnd : (consumeDraw s).rnd = Config.freshRnd (s.draws + 1) := rfl
@[simp] theorem consumeDraw_draws : (consumeDraw s).draws = s.draws + 1 := rfl
@[simp] theorem consumeDraw_edges : (consumeDraw s).edges = s.edges := rfl

/-! ### Presenting a word -/

@[simp] theorem presentWord_crcKey : (presentWord w s).crcKey = s.crcKey := rfl
@[simp] theorem presentWord_crcTag : (presentWord w s).crcTag = s.crcTag := rfl
@[simp] theorem presentWord_tState : (presentWord w s).tState = s.tState := rfl
@[simp] theorem presentWord_keyLen : (presentWord w s).keyLen = s.keyLen := rfl
@[simp] theorem presentWord_tagOpen : (presentWord w s).tagOpen = s.tagOpen := rfl
@[simp] theorem presentWord_tagLen : (presentWord w s).tagLen = s.tagLen := rfl
@[simp] theorem presentWord_lenSat : (presentWord w s).lenSat = s.lenSat := rfl
@[simp] theorem presentWord_done : (presentWord w s).done = s.done := rfl
@[simp] theorem presentWord_slot : (presentWord w s).slot = s.slot := rfl
@[simp] theorem presentWord_crcEff : (presentWord w s).crcEff = s.crcEff := rfl
@[simp] theorem presentWord_effStart : (presentWord w s).effStart = s.effStart := rfl
@[simp] theorem presentWord_effLen : (presentWord w s).effLen = s.effLen := rfl
@[simp] theorem presentWord_tagged : (presentWord w s).tagged = s.tagged := rfl
@[simp] theorem presentWord_random : (presentWord w s).random = s.random := rfl
@[simp] theorem presentWord_romData : (presentWord w s).romData = s.romData := rfl
@[simp] theorem presentWord_ill : (presentWord w s).ill = s.ill := rfl
@[simp] theorem presentWord_lenW : (presentWord w s).lenW = s.lenW := rfl
@[simp] theorem presentWord_rnd : (presentWord w s).rnd = s.rnd := rfl
@[simp] theorem presentWord_draws : (presentWord w s).draws = s.draws := rfl
@[simp] theorem presentWord_edges : (presentWord w s).edges = presentingEdge w s.rnd :: s.edges := rfl

/-! ### The block alone -/

@[simp] theorem block_crcKey : (s.block).crcKey = s.crcKey := rfl
@[simp] theorem block_crcTag : (s.block).crcTag = s.crcTag := rfl
@[simp] theorem block_tState : (s.block).tState = s.tState := rfl
@[simp] theorem block_keyLen : (s.block).keyLen = s.keyLen := rfl
@[simp] theorem block_tagOpen : (s.block).tagOpen = s.tagOpen := rfl
@[simp] theorem block_tagLen : (s.block).tagLen = s.tagLen := rfl
@[simp] theorem block_lenSat : (s.block).lenSat = s.lenSat := rfl
@[simp] theorem block_done : (s.block).done = s.done := rfl
@[simp] theorem block_slot : (s.block).slot = s.slot := rfl
@[simp] theorem block_crcEff : (s.block).crcEff = s.crcEff := rfl
@[simp] theorem block_effStart : (s.block).effStart = s.effStart := rfl
@[simp] theorem block_effLen : (s.block).effLen = s.effLen := rfl
@[simp] theorem block_tagged : (s.block).tagged = s.tagged := rfl
@[simp] theorem block_random : (s.block).random = s.random := rfl
@[simp] theorem block_romData : (s.block).romData = s.romData := rfl
@[simp] theorem block_ill : (s.block).ill = s.ill := rfl
@[simp] theorem block_lenW : (s.block).lenW = s.lenW := rfl
@[simp] theorem block_rnd : (s.block).rnd = 0#14 := rfl
@[simp] theorem block_draws : (s.block).draws = 0 := rfl
@[simp] theorem block_edges : (s.block).edges = [] := rfl

/-! ### Writing the result group -/

@[simp] theorem writeResult_crcKey : (writeResult a c p n t r s).crcKey = s.crcKey := rfl
@[simp] theorem writeResult_crcTag : (writeResult a c p n t r s).crcTag = s.crcTag := rfl
@[simp] theorem writeResult_tState : (writeResult a c p n t r s).tState = s.tState := rfl
@[simp] theorem writeResult_keyLen : (writeResult a c p n t r s).keyLen = s.keyLen := rfl
@[simp] theorem writeResult_tagOpen : (writeResult a c p n t r s).tagOpen = s.tagOpen := rfl
@[simp] theorem writeResult_tagLen : (writeResult a c p n t r s).tagLen = s.tagLen := rfl
@[simp] theorem writeResult_lenSat : (writeResult a c p n t r s).lenSat = s.lenSat := rfl
@[simp] theorem writeResult_done : (writeResult a c p n t r s).done = true := rfl
@[simp] theorem writeResult_slot : (writeResult a c p n t r s).slot = a := rfl
@[simp] theorem writeResult_crcEff : (writeResult a c p n t r s).crcEff = c := rfl
@[simp] theorem writeResult_effStart : (writeResult a c p n t r s).effStart = p := rfl
@[simp] theorem writeResult_effLen : (writeResult a c p n t r s).effLen = n := rfl
@[simp] theorem writeResult_tagged : (writeResult a c p n t r s).tagged = t := rfl
@[simp] theorem writeResult_random : (writeResult a c p n t r s).random = r := rfl
@[simp] theorem writeResult_romData : (writeResult a c p n t r s).romData = s.romData := rfl
@[simp] theorem writeResult_ill : (writeResult a c p n t r s).ill = s.ill := rfl
@[simp] theorem writeResult_lenW : (writeResult a c p n t r s).lenW = s.lenW := rfl
@[simp] theorem writeResult_rnd : (writeResult a c p n t r s).rnd = s.rnd := rfl
@[simp] theorem writeResult_draws : (writeResult a c p n t r s).draws = s.draws := rfl
@[simp] theorem writeResult_edges : (writeResult a c p n t r s).edges = s.edges := rfl

/-! ### The extractor writes TSTATE, CRC_TAG, TAG_OPEN and TAG_LEN only -/

@[simp] theorem scanByte_crcKey : (scanByte b s).crcKey = s.crcKey := by
  unfold scanByte; split <;> (try split) <;> rfl
@[simp] theorem scanByte_keyLen : (scanByte b s).keyLen = s.keyLen := by
  unfold scanByte; split <;> (try split) <;> rfl
@[simp] theorem scanByte_lenSat : (scanByte b s).lenSat = s.lenSat := by
  unfold scanByte; split <;> (try split) <;> rfl
@[simp] theorem scanByte_done : (scanByte b s).done = s.done := by
  unfold scanByte; split <;> (try split) <;> rfl
@[simp] theorem scanByte_slot : (scanByte b s).slot = s.slot := by
  unfold scanByte; split <;> (try split) <;> rfl
@[simp] theorem scanByte_crcEff : (scanByte b s).crcEff = s.crcEff := by
  unfold scanByte; split <;> (try split) <;> rfl
@[simp] theorem scanByte_effStart : (scanByte b s).effStart = s.effStart := by
  unfold scanByte; split <;> (try split) <;> rfl
@[simp] theorem scanByte_effLen : (scanByte b s).effLen = s.effLen := by
  unfold scanByte; split <;> (try split) <;> rfl
@[simp] theorem scanByte_tagged : (scanByte b s).tagged = s.tagged := by
  unfold scanByte; split <;> (try split) <;> rfl
@[simp] theorem scanByte_random : (scanByte b s).random = s.random := by
  unfold scanByte; split <;> (try split) <;> rfl
@[simp] theorem scanByte_romData : (scanByte b s).romData = s.romData := by
  unfold scanByte; split <;> (try split) <;> rfl
@[simp] theorem scanByte_ill : (scanByte b s).ill = s.ill := by
  unfold scanByte; split <;> (try split) <;> rfl
@[simp] theorem scanByte_lenW : (scanByte b s).lenW = s.lenW := by
  unfold scanByte; split <;> (try split) <;> rfl
@[simp] theorem scanByte_rnd : (scanByte b s).rnd = s.rnd := by
  unfold scanByte; split <;> (try split) <;> rfl
@[simp] theorem scanByte_draws : (scanByte b s).draws = s.draws := by
  unfold scanByte; split <;> (try split) <;> rfl
@[simp] theorem scanByte_edges : (scanByte b s).edges = s.edges := by
  unfold scanByte; split <;> (try split) <;> rfl

end Sys2Proof.Machine
end

