-- ==== Sys2Proof/Laws/Ops.lean ====
section
/-! SUPPORT. The laws of the shared operations: saturation, the reduction, and what each command's meaning is as one
equation. -/

namespace Sys2Proof.Machine

/-! ### Saturation -/

theorem satMax_pos {n : Nat} (h : 1 ≤ n) : 1 ≤ satMax n := by
  have : 2 ^ 1 ≤ 2 ^ n := Nat.pow_le_pow_right (by omega) h
  unfold satMax; omega

theorem sat_le (n v : Nat) : sat n v ≤ satMax n := Nat.min_le_right _ _

theorem sat_of_le {n v : Nat} (h : v ≤ satMax n) : sat n v = v := Nat.min_eq_left h

theorem sat_of_ge {n v : Nat} (h : satMax n ≤ v) : sat n v = satMax n := Nat.min_eq_right h

theorem sat_succ_pos {n v : Nat} (h : 1 ≤ n) : 1 ≤ sat n (v + 1) :=
  Nat.le_min.2 ⟨by omega, satMax_pos h⟩

theorem sat_succ_sat (n v : Nat) : sat n (sat n v + 1) = sat n (v + 1) := by
  unfold sat; omega

theorem lt_two_pow_of_le_satMax {n v : Nat} (h : v ≤ satMax n) : v < 2 ^ n := by
  have : 0 < 2 ^ n := Nat.pow_pos (by omega)
  unfold satMax at h; omega

/-! ### The meanings, each as one equation -/

theorem exec_nop (s : State) : exec .nop s = .next s := rfl

theorem exec_start (s : State) : exec .start s = .next (clearAccumulators s) := rfl

theorem exec_byte (b : Byte) (s : State) : exec (.byte b) s = .next { scanByte b s with
    crcKey := crcUpd s.crcKey b, lenSat := lenSatAfterByte s, keyLen := sat s.lenW (s.keyLen + 1), done := false } :=
  rfl

theorem exec_endKey_empty {s : State} (h : s.keyLen = 0) : exec .endKey s = .next (resolveEmpty s) := by
  simp [exec, execEndKey, h]

theorem exec_endKey_tag {s : State} (h : s.keyLen ≠ 0) (ht : s.tState = .tag) :
    exec .endKey s = .next (resolveTag s) := by
  simp [exec, execEndKey, h, ht]

theorem exec_endKey_whole {s : State} (h : s.keyLen ≠ 0) (ht : s.tState ≠ .tag) :
    exec .endKey s = .next (resolveWhole s) := by
  cases hs : s.tState <;> simp_all [exec, execEndKey]

theorem exec_romrd (i : Byte) (s : State) : exec (.romrd i) s = .next (writeRomData (rom i) s) := rfl

/-- What END can do: one of three resolutions, by KEY_LEN and TSTATE. -/
theorem exec_endKey_cases {s t : State} (h : exec .endKey s = .next t) :
    (s.keyLen = 0 ∧ t = resolveEmpty s) ∨ (s.keyLen ≠ 0 ∧ s.tState = .tag ∧ t = resolveTag s)
      ∨ (s.keyLen ≠ 0 ∧ s.tState ≠ .tag ∧ t = resolveWhole s) := by
  by_cases hk : s.keyLen = 0
  · rw [exec_endKey_empty hk] at h; cases h; exact .inl ⟨hk, rfl⟩
  · by_cases ht : s.tState = .tag
    · rw [exec_endKey_tag hk ht] at h; cases h; exact .inr (.inl ⟨hk, ht, rfl⟩)
    · rw [exec_endKey_whole hk ht] at h; cases h; exact .inr (.inr ⟨hk, ht, rfl⟩)

/-- The extractor's transition neither reads nor writes what the environment shows. -/
theorem scanByte_environment (b : Byte) (s : State) (r : SlotNo) (d : Nat) (es : List Edge) :
    scanByte b { s with rnd := r, draws := d, edges := es }
      = { scanByte b s with rnd := r, draws := d, edges := es } := by
  obtain ⟨_, _, ts, _⟩ := s
  cases ts <;> simp only [scanByte] <;> (try split) <;> rfl

/-- What the extractor's transition on a byte can do: a row of the table, with the rest of the state as it was. -/
theorem scanByte_cases (b : Byte) (s : State) :
    (s.tState = .scan ∧ b = openBrace ∧ scanByte b s = { s with tState := .opened, tagOpen := s.keyLen })
      ∨ (s.tState = .scan ∧ b ≠ openBrace ∧ scanByte b s = s)
      ∨ (s.tState = .opened ∧ b = closeBrace ∧ s.tagLen = 0 ∧ scanByte b s = { s with tState := .noTag })
      ∨ (s.tState = .opened ∧ b = closeBrace ∧ s.tagLen ≠ 0 ∧ scanByte b s = { s with tState := .tag })
      ∨ (s.tState = .opened ∧ b ≠ closeBrace
          ∧ scanByte b s = { s with crcTag := crcUpd s.crcTag b, tagLen := sat s.lenW (s.tagLen + 1) })
      ∨ (s.tState = .tag ∧ scanByte b s = s) ∨ (s.tState = .noTag ∧ scanByte b s = s) := by
  cases hs : s.tState
  · by_cases hb : b = openBrace <;> simp [scanByte, hs, hb]
  · by_cases hb : b = closeBrace
    · by_cases hl : s.tagLen = 0 <;> simp [scanByte, hs, hb, hl]
    · simp [scanByte, hs, hb]
  · simp [scanByte, hs]
  · simp [scanByte, hs]

end Sys2Proof.Machine
end

