-- ==== Sys2Proof/Laws/PerInstr.lean ====
section
/-! SUPPORT. Statements about every instruction as syntax. -/

namespace Sys2Proof.Laws.OpcodeRow

/-- The instruction is well formed, and its word meets its own row of the opcode map (30_encoding.md R65). -/
def Statement (i : Instr) : Prop := i.wellFormed = true ∧ encode i &&& rowMask i = rowMatch i

theorem nop : Statement .nop := ⟨rfl, by decide⟩

theorem start : Statement .start := ⟨rfl, by decide⟩

theorem byte (b : Byte) : Statement (.byte b) := ⟨rfl, by revert b; decide⟩

theorem endKey : Statement .endKey := ⟨rfl, by decide⟩

theorem romrd (i : Byte) : Statement (.romrd i) := ⟨rfl, by revert i; decide⟩

end Sys2Proof.Laws.OpcodeRow
end

