-- ==== Sys2Proof/Laws/Reference.lean ====
section
/-! SUPPORT. How the reference functions on keys grow by one byte at the end. -/

namespace Sys2Proof.Machine

theorem crc16_append (s t : List Byte) : crc16 (s ++ t) = t.foldl crcUpd (crc16 s) := by
  simp [crc16]

theorem firstOpen_lt {k : List Byte} {i : Nat} (h : firstOpen k = some i) : i < k.length := by
  obtain ⟨hi, -⟩ := List.findIdx?_eq_some_iff_getElem.1 h
  exact hi

/-- The first open brace of a longer key: the old one, or the new byte. -/
theorem firstOpen_snoc (k : List Byte) (b : Byte) :
    firstOpen (k ++ [b]) = (firstOpen k).or (if b = openBrace then some k.length else none) := by
  by_cases hb : b = openBrace <;> simp [firstOpen, List.findIdx?_append, hb]

/-- The close brace after index `s` of a longer key: the old one, or the new byte. -/
theorem closeAfter_snoc {k : List Byte} {s : Nat} (h : s < k.length) (b : Byte) :
    closeAfter (k ++ [b]) s
      = (closeAfter k s).or (if b = closeBrace then some (k.length - (s + 1)) else none) := by
  have hd : (k ++ [b]).drop (s + 1) = k.drop (s + 1) ++ [b] := List.drop_append_of_le_length h
  unfold closeAfter
  rw [hd, List.findIdx?_append]
  by_cases hb : b = closeBrace <;> simp [hb]

theorem closeAfter_length (k : List Byte) (b : Byte) : closeAfter (k ++ [b]) k.length = none := by
  simp [closeAfter]

/-- Bytes that hold no close brace are the candidate tag to the end. -/
theorem takeWhile_of_no_close {l : List Byte} (h : l.findIdx? (fun b => b == closeBrace) = none) :
    l.takeWhile (fun b => b != closeBrace) = l := by
  rw [List.takeWhile_eq_self_iff]
  intro b hb
  have := List.findIdx?_eq_none_iff.1 h b hb
  simpa using this

/-- Up to the first close brace, the candidate tag is what stands before it. -/
theorem takeWhile_of_close {l : List Byte} {d : Nat}
    (h : l.findIdx? (fun b => b == closeBrace) = some d) :
    l.takeWhile (fun b => b != closeBrace) = l.take d := by
  induction l generalizing d with
  | nil => simp at h
  | cons a l ih =>
    by_cases ha : a = closeBrace
    · simp [List.findIdx?_cons, ha] at h; subst h; simp [ha]
    · simp only [List.findIdx?_cons, beq_eq_false_iff_ne.2 ha, Bool.false_eq_true, if_false] at h
      obtain ⟨d', hd', rfl⟩ := Option.map_eq_some_iff.1 h
      simpa [ha] using ih hd'

theorem candidateTag_opened {k : List Byte} {s : Nat} (ho : firstOpen k = some s) (hc : closeAfter k s = none) :
    candidateTag k = k.drop (s + 1) := by
  simp only [candidateTag, ho]; exact takeWhile_of_no_close hc

theorem candidateTag_closed {k : List Byte} {s d : Nat} (ho : firstOpen k = some s) (hc : closeAfter k s = some d) :
    candidateTag k = (k.drop (s + 1)).take d := by
  simp only [candidateTag, ho]; exact takeWhile_of_close hc

theorem closeAfter_lt {k : List Byte} {s d : Nat} (h : closeAfter k s = some d) : d < (k.drop (s + 1)).length := by
  obtain ⟨hi, -⟩ := List.findIdx?_eq_some_iff_getElem.1 h
  exact hi

/-! ### One byte more, by the scan state -/

/-- In SCAN, an open brace opens an empty candidate tag. -/
theorem snoc_scan_open {k : List Byte} {b : Byte} (ho : firstOpen k = none) (hb : b = openBrace) :
    firstOpen (k ++ [b]) = some k.length ∧ scanStateOf (k ++ [b]) = .opened ∧ candidateTag (k ++ [b]) = [] := by
  have h1 : firstOpen (k ++ [b]) = some k.length := by rw [firstOpen_snoc, ho]; simp [hb]
  have h2 := closeAfter_length k b
  refine ⟨h1, by simp [scanStateOf, h1, h2], ?_⟩
  rw [candidateTag_opened h1 h2]; simp

/-- In SCAN, any other byte leaves SCAN. -/
theorem snoc_scan_other {k : List Byte} {b : Byte} (ho : firstOpen k = none) (hb : b ≠ openBrace) :
    firstOpen (k ++ [b]) = none ∧ scanStateOf (k ++ [b]) = .scan ∧ candidateTag (k ++ [b]) = [] := by
  have h1 : firstOpen (k ++ [b]) = none := by rw [firstOpen_snoc, ho]; simp [hb]
  exact ⟨h1, by simp [scanStateOf, h1], by simp [candidateTag, h1]⟩

theorem firstOpen_snoc_some {k : List Byte} {i : Nat} (ho : firstOpen k = some i) (b : Byte) :
    firstOpen (k ++ [b]) = some i := by
  rw [firstOpen_snoc, ho]; rfl

/-- In OPEN, a close brace ends the candidate tag. -/
theorem snoc_opened_close {k : List Byte} {b : Byte} {i : Nat} (ho : firstOpen k = some i)
    (hc : closeAfter k i = none) (hb : b = closeBrace) :
    candidateTag (k ++ [b]) = candidateTag k
      ∧ scanStateOf (k ++ [b]) = if candidateTag k = [] then .noTag else .tag := by
  have hi := firstOpen_lt ho
  have h1 := firstOpen_snoc_some ho b
  have h2 : closeAfter (k ++ [b]) i = some (k.length - (i + 1)) := by rw [closeAfter_snoc hi, hc]; simp [hb]
  rw [candidateTag_closed h1 h2, candidateTag_opened ho hc]
  constructor
  · rw [List.drop_append_of_le_length hi, List.take_left']; simp
  · simp only [scanStateOf, h1, h2, List.drop_eq_nil_iff]
    by_cases h : k.length ≤ i + 1
    · rw [show k.length - (i + 1) = 0 by omega, if_pos h]
    · rw [show k.length - (i + 1) = (k.length - (i + 2)) + 1 by omega, if_neg h]

/-- In OPEN, any other byte joins the candidate tag. -/
theorem snoc_opened_other {k : List Byte} {b : Byte} {i : Nat} (ho : firstOpen k = some i)
    (hc : closeAfter k i = none) (hb : b ≠ closeBrace) :
    candidateTag (k ++ [b]) = candidateTag k ++ [b] ∧ scanStateOf (k ++ [b]) = .opened := by
  have hi := firstOpen_lt ho
  have h1 := firstOpen_snoc_some ho b
  have h2 : closeAfter (k ++ [b]) i = none := by rw [closeAfter_snoc hi, hc]; simp [hb]
  refine ⟨?_, by simp [scanStateOf, h1, h2]⟩
  rw [candidateTag_opened h1 h2, candidateTag_opened ho hc, List.drop_append_of_le_length hi]

/-- In TAG and NOTAG, no byte changes anything. -/
theorem snoc_closed {k : List Byte} {i d : Nat} (ho : firstOpen k = some i) (hc : closeAfter k i = some d) (b : Byte) :
    candidateTag (k ++ [b]) = candidateTag k ∧ scanStateOf (k ++ [b]) = scanStateOf k := by
  have hi := firstOpen_lt ho
  have h1 := firstOpen_snoc_some ho b
  have h2 : closeAfter (k ++ [b]) i = some d := by rw [closeAfter_snoc hi, hc]; rfl
  have hd : d ≤ (k.drop (i + 1)).length := Nat.le_of_lt (closeAfter_lt hc)
  refine ⟨?_, by simp [scanStateOf, h1, h2, ho, hc]⟩
  rw [candidateTag_closed h1 h2, candidateTag_closed ho hc, List.drop_append_of_le_length hi,
    List.take_append_of_le_length hd]

/-- The effective key of a key with no tag is the whole key. -/
theorem effectiveBytes_untagged {k : List Byte} (h : (effectiveKey k).tagged = false) : effectiveBytes k = k := by
  have : (effectiveKey k).start = 0 ∧ (effectiveKey k).len = k.length := by
    unfold effectiveKey at h ⊢
    repeat' split
    all_goals simp_all
  simp [effectiveBytes, slice, this]

/-- The effective key of a key with a tag is the candidate tag. -/
theorem effectiveBytes_tagged {k : List Byte} (h : (effectiveKey k).tagged = true) :
    effectiveBytes k = candidateTag k := by
  unfold effectiveKey at h
  repeat' split at h
  all_goals try simp at h
  rename_i _ s ho _ d hc
  have he : effectiveKey k = { start := s + 1, len := d + 1, tagged := true } := by simp [effectiveKey, ho, hc]
  rw [candidateTag_closed ho hc, effectiveBytes, he]
  simp [slice]

end Sys2Proof.Machine
end

