-- ==== Sys2Proof/Laws/Step.lean ====
section
/-! SUPPORT. What an accepted word, an edge and a step can do, each said once. -/

namespace Sys2Proof.Machine

/-- Everything a command can do. -/
theorem exec_cases {i : Instr} {s t : State} (h : exec i s = .next t) :
    (i = .nop ∧ t = s)
      ∨ (i = .start ∧ t = clearAccumulators s)
      ∨ (∃ b, i = .byte b ∧ t = { scanByte b s with
          crcKey := crcUpd s.crcKey b, lenSat := lenSatAfterByte s, keyLen := sat s.lenW (s.keyLen + 1),
          done := false })
      ∨ (i = .endKey
          ∧ ((s.keyLen = 0 ∧ t = resolveEmpty s) ∨ (s.keyLen ≠ 0 ∧ s.tState = .tag ∧ t = resolveTag s)
              ∨ (s.keyLen ≠ 0 ∧ s.tState ≠ .tag ∧ t = resolveWhole s)))
      ∨ (∃ n, i = .romrd n ∧ t = writeRomData (rom n) s) := by
  cases i with
  | nop => cases h; exact .inl ⟨rfl, rfl⟩
  | start => cases h; exact .inr (.inl ⟨rfl, rfl⟩)
  | byte b => cases h; exact .inr (.inr (.inl ⟨b, rfl, rfl⟩))
  | endKey => exact .inr (.inr (.inr (.inl ⟨rfl, exec_endKey_cases h⟩)))
  | romrd n => cases h; exact .inr (.inr (.inr (.inr ⟨n, rfl, rfl⟩)))

/-- No command touches the edges to come. -/
theorem exec_edges {i : Instr} {s t : State} (h : exec i s = .next t) : t.edges = s.edges := by
  rcases exec_cases h with ⟨-, rfl⟩ | ⟨-, rfl⟩ | ⟨b, -, rfl⟩ | ⟨-, ⟨-, rfl⟩ | ⟨-, -, rfl⟩ | ⟨-, -, rfl⟩⟩ | ⟨n, -, rfl⟩ <;>
    simp [resolveEmpty, resolveTag, resolveWhole]

/-- An accepted word runs its command, or sets ILL. -/
theorem acceptWord_cases {w : Word} {r : SlotNo} {s t : State} (h : acceptWord w r s = .next t) :
    (∃ i, decode w = .ok i ∧ exec i { s with rnd := r } = .next t)
      ∨ (∃ x, decode w = .error x ∧ t = raiseIllegalCommand { s with rnd := r }) := by
  unfold acceptWord at h
  split at h
  · exact .inl ⟨_, ‹_›, h⟩
  · cases h; exact .inr ⟨_, ‹_›, rfl⟩

theorem acceptWord_ok {w : Word} {i : Instr} (h : decode w = .ok i) (r : SlotNo) (s : State) :
    acceptWord w r s = exec i { s with rnd := r } := by
  simp [acceptWord, h]

theorem acceptWord_error {w : Word} {x : IllegalWord} (h : decode w = .error x) (r : SlotNo) (s : State) :
    acceptWord w r s = .next (raiseIllegalCommand { s with rnd := r }) := by
  simp [acceptWord, h]

/-- An edge resets the block, accepts a word, or does nothing. -/
theorem clockEdge_cases {e : Edge} {s t : State} (h : clockEdge e s = .next t) :
    (e.rstN = false ∧ t = resetRegisters s)
      ∨ (e.rstN = true ∧ e.accepts = true ∧ acceptWord e.cmd e.rnd s = .next t)
      ∨ (e.rstN = true ∧ e.accepts = false ∧ t = s) := by
  unfold clockEdge at h
  split at h
  · cases h; exact .inl ⟨‹_›, rfl⟩
  · split at h
    · exact .inr (.inl ⟨by simpa using ‹¬ e.rstN = false›, ‹_›, h⟩)
    · cases h; exact .inr (.inr ⟨by simpa using ‹¬ e.rstN = false›, by simpa using ‹¬ e.accepts = true›, rfl⟩)

/-- A step takes the next edge off the list, or, where none is listed, leaves the state. -/
theorem step_cases {s t : State} (h : step s = .next t) :
    (s.edges = [] ∧ t = s) ∨ (∃ e rest, s.edges = e :: rest ∧ clockEdge e { s with edges := rest } = .next t) := by
  unfold step nextEdge at h
  split at h
  · cases h; exact .inl ⟨‹_›, rfl⟩
  · exact .inr ⟨_, _, ‹_›, h⟩

theorem step_cons {s : State} {e : Edge} {rest : List Edge} (h : s.edges = e :: rest) :
    step s = clockEdge e { s with edges := rest } := by
  simp [step, nextEdge, h]

/-- Everything a listed edge can do. -/
theorem step_cons_cases {s t : State} {e : Edge} {rest : List Edge} (h : s.edges = e :: rest)
    (hs : step s = .next t) :
    (e.rstN = false ∧ t = resetRegisters { s with edges := rest })
      ∨ (e.rstN = true ∧ e.accepts = true
          ∧ ∃ i, decode e.cmd = .ok i ∧ exec i { s with edges := rest, rnd := e.rnd } = .next t)
      ∨ (e.rstN = true ∧ e.accepts = true
          ∧ ∃ x, decode e.cmd = .error x ∧ t = raiseIllegalCommand { s with edges := rest, rnd := e.rnd })
      ∨ (e.rstN = true ∧ e.accepts = false ∧ t = { s with edges := rest }) := by
  rw [step_cons h] at hs
  rcases clockEdge_cases hs with ⟨h0, rfl⟩ | ⟨h1, h2, ha⟩ | ⟨h1, h2, rfl⟩
  · exact .inl ⟨h0, rfl⟩
  · rcases acceptWord_cases ha with ⟨i, hd, hi⟩ | ⟨x, hd, rfl⟩
    · exact .inr (.inl ⟨h1, h2, i, hd, hi⟩)
    · exact .inr (.inr (.inl ⟨h1, h2, x, hd, rfl⟩))
  · exact .inr (.inr (.inr ⟨h1, h2, rfl⟩))

theorem accepts_iff (e : Edge) :
    e.accepts = true ↔ e.rstN = true ∧ e.cmdValid = true ∧ e.ready = true := by
  simp only [Edge.accepts, Edge.cmdReady, Bool.and_eq_true]; tauto

end Sys2Proof.Machine
end

