-- ==== Sys2Proof/Tests/Slice0.lean ====
section
/-! SUPPORT. The model's own tests: words written out from the encodings, the ill-formed source lines, one step of each
command against the vectors of spec/95_test_vectors.md, and a witness for every statement that has hypotheses. -/

namespace Sys2Proof.Tests

open Sys2Proof.Machine

/-! ### Helpers -/

/-- The state after reset, with a plain value on `rnd`. -/
def base : State := { State.resetBuild 32 with rnd := 0x1234#14 }

/-- A view of the next state. -/
def after {α : Type} (o : Outcome) (f : State → α) : Option α :=
  match o with
  | .next t => some (f t)
  | .fault _ => none
  | .refused _ => none

/-- An edge at which the host presents a word and the build is ready. -/
def give (w : Word) : Edge := presentingEdge w 0x0005#14

/-- A reset edge that also presents a word. -/
def resetEdge : Edge := { rstN := false, cmdValid := true, cmd := 0x2061#16, rnd := 0x0000#14, ready := true }

/-- An edge at which nothing is presented. -/
def idleEdge : Edge := { rstN := true, cmdValid := false, cmd := 0x2061#16, rnd := 0x0000#14, ready := true }

/-- An edge at which the build is not ready. -/
def stallEdge : Edge := { rstN := true, cmdValid := true, cmd := 0x2061#16, rnd := 0x0000#14, ready := false }

/-- `base` with the given edges to come. -/
def atEdges (es : List Edge) : State := { base with edges := es }

/-- Row 4 of the trace of 95_test_vectors.md section 3.4: "foo" and an open brace. -/
def fooOpen : State := { base with crcKey := 0x1DF9#16, tState := .opened, keyLen := 4, tagOpen := 3 }

/-- Row 8 of that trace. -/
def fooBar : State :=
  { base with crcKey := 0x904D#16, tState := .opened, crcTag := 0xCFAF#16, keyLen := 8, tagOpen := 3, tagLen := 4 }

/-- Row 13 of that trace: the whole key. -/
def fooBarZap : State :=
  { base with crcKey := 0x6FDA#16, tState := .tag, crcTag := 0xCFAF#16, keyLen := 13, tagOpen := 3, tagLen := 4 }

/-- The state of the key "foo" before END. -/
def foo : State := { base with crcKey := 0xAF96#16, keyLen := 3 }

/-- The state after `SLOT "foo"` (95_test_vectors.md section 4.2). -/
def fooDone : State :=
  { foo with slot := 12182#14, crcEff := 0xAF96#16, effLen := 3, done := true }

/-- A key of one open brace and one close brace. -/
def emptyTag : State := { base with crcKey := 0x7B99#16, tState := .noTag, keyLen := 2 }

/-- A build with LEN_W = 2 whose KEY_LEN is saturated (95_test_vectors.md section 5). -/
def full : State := { base with lenW := 2, crcKey := 0x9DD6#16, keyLen := 3 }

/-! ### Decoding: words written out bit by bit (30_encoding.md R63, R65) -/

theorem test_decode_nop : decode 0b0000000000000000#16 = .ok .nop := by decide

theorem test_decode_start : decode 0b0001000000000000#16 = .ok .start := by decide

theorem test_decode_byte : decode 0b0010000001111011#16 = .ok (.byte 0x7B#8) := by decide

theorem test_decode_end : decode 0b0011000000000000#16 = .ok .endKey := by decide

theorem test_decode_romrd : decode 0b0100000010000001#16 = .ok (.romrd 0x81#8) := by decide

/-- 30_encoding.md R67: one word of each class, and the neighbours of the rows. -/
theorem test_decode_illegal :
    decode 0b0100000100000000#16 = .error .reservedBits ∧ decode 0b0101000000000000#16 = .error .reservedOpcode
      ∧ decode 0b0011000000000001#16 = .error .operandNotZero ∧ decode 0b1111111111111111#16 = .error .reservedBits
      ∧ decode 0b0001000010000000#16 = .error .operandNotZero ∧ decode 0b1111000000000000#16 = .error .reservedOpcode
      ∧ decode 0x2F41#16 = .error .reservedBits := by
  decide

/-- The words of 30_encoding.md section 5. -/
theorem test_encode :
    encode (.byte 0x7B#8) = 0x207B#16 ∧ encode (.byte 0xFF#8) = 0x20FF#16 ∧ encode (.romrd 0x01#8) = 0x4001#16
      ∧ encode .start = 0x1000#16 ∧ encode .endKey = 0x3000#16 ∧ encode .nop = 0x0000#16 := by
  decide

theorem test_table_word :
    decodeTableWord 16 0x2041 = some (.byte 0x41#8) ∧ decodeTableWord 16 0x5000 = none
      ∧ decodeTableWord 24 0x10000 = none := by
  decide

/-! ### Well-formedness: an ill-formed line for each check (30_encoding.md R70) -/

theorem test_wellFormed_byte :
    (SourceLine.byte 256).wellFormed = false ∧ (SourceLine.byte 255).wellFormed = true
      ∧ assembleLine (.byte 256) = .error .outOfRange := by
  decide

theorem test_wellFormed_romrd :
    (SourceLine.romrd 256).wellFormed = false ∧ (SourceLine.romrd 255).wellFormed = true
      ∧ assembleLine (.romrd 256) = .error .outOfRange := by
  decide

theorem test_wellFormed_word :
    (SourceLine.word 0x10000).wellFormed = false ∧ (SourceLine.word 0xFFFF).wellFormed = true
      ∧ assembleLine (.word 0x10000) = .error .outOfRange := by
  decide

theorem test_wellFormed_instr :
    Instr.wellFormed .nop ∧ Instr.wellFormed .start ∧ Instr.wellFormed (.byte 0xFF#8) ∧ Instr.wellFormed .endKey
      ∧ Instr.wellFormed (.romrd 0xFF#8) := by
  decide

/-! ### The CRC engine (95_test_vectors.md section 2) -/

/-- Section 2.2, every row. -/
theorem test_crcUpd :
    crcUpd 0x0000#16 0x00#8 = 0x0000#16 ∧ crcUpd 0x0000#16 0x01#8 = 0x1021#16 ∧ crcUpd 0x0000#16 0xFF#8 = 0x1EF0#16
      ∧ crcUpd 0xFFFF#16 0xFF#8 = 0xFF00#16 ∧ crcUpd 0x8000#16 0x00#8 = 0x9188#16
      ∧ crcUpd 0x00FF#16 0x00#8 = 0xFF00#16 ∧ crcUpd 0x1234#16 0x56#8 = 0x3C40#16 := by
  decide +kernel

/-- Section 2.3: "a", "abcd", a trailing zero byte. -/
theorem test_crc16 :
    crc16 [0x61#8] = 0x7C87#16 ∧ crc16 [0x61#8, 0x62#8, 0x63#8, 0x64#8] = 0xA836#16
      ∧ crc16 [0x61#8, 0x00#8] = 0x381B#16 := by
  decide +kernel

/-- An empty pair followed by "foo" in braces (section 3.3, sensitive to 90_conflicts.md C1); a close brace before a tag
(section 3.2); a close brace, then an open one (section 3.1); the empty key. -/
theorem test_slot_vectors :
    slotFunction [0x7B#8, 0x7D#8, 0x7B#8, 0x66#8, 0x6F#8, 0x6F#8, 0x7D#8] 0#14 = 2263
      ∧ slotFunction [0x7D#8, 0x7B#8, 0x61#8, 0x7D#8] 0#14 = 15495
      ∧ slotFunction [0x7D#8, 0x7B#8] 0#14 = 12793 ∧ slotFunction [] 0x3FFF#14 = 16383 := by
  decide +kernel

/-! ### One step of each command (95_test_vectors.md sections 2.1, 3.4, 3.5, 4.2, 4.3, 5) -/

theorem test_nop : after (exec .nop fooDone) id = some fooDone := by decide

theorem test_start :
    after (exec .start fooDone) (fun t => (t.crcKey, t.keyLen, t.slot, t.effLen, status t))
      = some (0x0000#16, 0, 12182#14, 3, 0x00#8) := by
  decide

/-- Row 5 of section 3.4: a second open brace is an ordinary byte of the tag. -/
theorem test_byte_open_brace_in_tag :
    after (exec (.byte 0x7B#8) fooOpen) (fun t => (t.crcKey, t.tState, t.crcTag, t.keyLen, t.tagOpen, t.tagLen))
      = some (0xF560#16, .opened, 0xCFFC#16, 5, 3, 1) := by
  decide +kernel

/-- Row 9 of section 3.4: the close brace ends the tag and is not part of it. -/
theorem test_byte_close_brace :
    after (exec (.byte 0x7D#8) fooBar) (fun t => (t.crcKey, t.tState, t.crcTag, t.keyLen, t.tagOpen, t.tagLen))
      = some (0x6183#16, .tag, 0xCFAF#16, 9, 3, 4) := by
  decide +kernel

/-- Section 5: the fourth byte of "abcd" with LEN_W = 2. -/
theorem test_byte_saturates :
    after (exec (.byte 0x64#8) full) (fun t => (t.crcKey, t.keyLen, t.lenSat)) = some (0xA836#16, 3, true) := by
  decide +kernel

/-- The end of section 3.4. -/
theorem test_end_tag :
    after (exec .endKey fooBarZap) (fun t => (t.slot, t.crcEff, t.effStart, t.effLen, status t))
      = some (4015#14, 0xCFAF#16, 4, 4, 0x43#8) := by
  decide

/-- Section 3.5, the first row. -/
theorem test_end_empty_key :
    after (exec .endKey base) (fun t => (t.slot, t.crcEff, t.effStart, t.effLen, status t, t.draws))
      = some (4660#14, 0x0000#16, 0, 0, 0x05#8, 1) := by
  decide

/-- Section 2.1. -/
theorem test_romrd :
    after (exec (.romrd 0x7B#8) fooDone) (fun t => (t.romData, t.slot, t.done)) = some (0xCFFC#16, 12182#14, true)
      ∧ after (exec (.romrd 0x80#8) base) (fun t => t.romData) = some 0x9188#16 := by
  decide +kernel

/-- Section 4.3, the second row, as a step of the machine. -/
theorem test_illegal_word :
    after (step { fooDone with edges := [give 0x3001#16] }) (fun t => (status t, t.slot)) = some (0x11#8, 12182#14) := by
  decide

/-- 70_reset_and_hazards.md R120: the word presented at a reset edge is not accepted. -/
theorem test_reset_edge :
    after (step { fooDone with ill := true, edges := [resetEdge] }) State.block = some (State.resetBuild 32).block := by
  decide

/-- The first step of the machine runs the presented word. -/
theorem test_first_step :
    after (step (State.reset.withFetchWord 16 0x2061)) (fun t => (t.crcKey, t.keyLen)) = some (0x7C87#16, 1) := by
  decide +kernel

/-! ### Witnesses: for each statement with hypotheses, operands and states that meet them, clause by clause -/

/-- OpcodeMapDecides, its second clause. -/
theorem test_witness_OpcodeMapDecides :
    ∃ (w : Word) (i j : Instr), i ≠ j ∧ w &&& rowMask i = rowMatch i ∧ w &&& rowMask j = rowMatch j :=
  ⟨0x20FF#16, .byte 0x00#8, .byte 0xFF#8, by decide⟩

/-- IllegalWordsAreTheThreeClasses, NopWritesNothing and RomrdReadsTheEntry: illegal words at the ends of the classes. -/
theorem test_witness_illegal_words :
    legalWord 0x5000#16 = false ∧ legalWord 0xF0FF#16 = false ∧ legalWord 0x0100#16 = false
      ∧ legalWord 0x30FF#16 = false
      ∧ ((0x0FFF#16 : Word).toNat / 4096 = 0 ∧ (0x0FFF#16 : Word) ≠ 0x0000#16)
      ∧ ((0x0001#16 : Word).toNat / 4096 = 0 ∧ (0x0001#16 : Word) ≠ 0x0000#16)
      ∧ decode 0x0000#16 = .ok .nop
      ∧ (0x4100#16 : Word).toNat / 256 % 16 ≠ 0 ∧ (0x4FFF#16 : Word).toNat / 256 % 16 ≠ 0 := by
  decide

/-- StepRunsDecodedInstruction, EdgeDoesExactlyOneThing, StepTakesOneEdge, IllegalCommandOnlySetsIll and the other
statements about a listed edge: an edge of every kind, and the step answers. -/
theorem test_witness_edges :
    (atEdges [give 0x2061#16]).edges = give 0x2061#16 :: []
      ∧ (give 0x2061#16).rstN = true ∧ (give 0x2061#16).cmdValid = true ∧ (give 0x2061#16).ready = true
      ∧ (give 0x2061#16).accepts = true ∧ decode (give 0x2061#16).cmd = .ok (.byte 0x61#8)
      ∧ (give 0x5000#16).accepts = true ∧ decode (give 0x5000#16).cmd = .error .reservedOpcode
      ∧ legalWord (give 0x5000#16).cmd = false
      ∧ resetEdge.rstN = false
      ∧ (idleEdge.rstN = true ∧ idleEdge.cmdValid = false ∧ idleEdge.accepts = false)
      ∧ (stallEdge.rstN = true ∧ stallEdge.ready = false ∧ stallEdge.accepts = false)
      ∧ base.edges = []
      ∧ (after (step (atEdges [idleEdge])) State.block).isSome = true
      ∧ (after (step (atEdges [give 0x2061#16])) State.block).isSome = true := by
  decide

/-- StepTakesOneEdge, OnlyNamedCommandsWrite, BuildWidthIsFixed and the other statements with a step as hypothesis:
each kind of edge, and no edge, has a next state. -/
theorem test_witness_steps :
    (∃ t, step base = .next t) ∧ (∃ t, step (atEdges [resetEdge]) = .next t)
      ∧ (∃ t, step (atEdges [idleEdge]) = .next t) ∧ (∃ t, step (atEdges [stallEdge]) = .next t)
      ∧ (∃ t, step (atEdges [give 0x2061#16]) = .next t) ∧ (∃ t, step (atEdges [give 0x4001#16]) = .next t)
      ∧ (∃ t, step (atEdges [give 0x3000#16]) = .next t) ∧ (∃ t, step (atEdges [give 0x5000#16]) = .next t) :=
  ⟨⟨_, rfl⟩, ⟨_, rfl⟩, ⟨_, rfl⟩, ⟨_, rfl⟩, ⟨_, rfl⟩, ⟨_, rfl⟩, ⟨_, rfl⟩, ⟨_, rfl⟩⟩

/-- ResetEdgeClearsEveryRegister, ResetEdgeEstablishesTheInvariant: two reset edges in a row, from a state that no run
reaches. -/
theorem test_witness_reset_edges :
    ∃ (s : State) (e f : Edge) (more : List Edge),
      1 ≤ s.lenW ∧ s.edges = e :: f :: more ∧ e.rstN = false ∧ f.rstN = false ∧ ¬ s.WidthsOk :=
  ⟨{ atEdges [resetEdge, resetEdge] with keyLen := 2 ^ 33 }, resetEdge, resetEdge, [], by decide⟩

/-- ResetStateIsAStartState, StartClearsTheAccumulators, EndResolvesTheSlot: the commands answer, and so do the worked
examples' runs. -/
theorem test_witness_commands :
    (∃ t u, exec .start base = .next t ∧ exec (.byte 0x7B#8) t = .next u ∧ 1 ≤ base.lenW)
      ∧ (∃ t u, runAccepted ((slotWords fooKey).map (fun w => (w, 0#14))) State.reset = .next t
          ∧ exec .start t = .next u)
      ∧ (∃ t, runAccepted ((slotWords checkKey).map (fun w => (w, 0#14))) State.reset = .next t) :=
  ⟨⟨_, _, rfl, rfl, by decide⟩, ⟨_, _, rfl, rfl⟩, ⟨_, rfl⟩⟩

/-- ByteFollowsTheScanTable: a state for each row of the table, and for the clause about SCAN. -/
theorem test_witness_ByteFollowsTheScanTable :
    (base.tState = .scan ∧ base.crcTag = 0x0000#16 ∧ base.tagOpen = 0 ∧ base.tagLen = 0)
      ∧ (fooOpen.tState = .opened ∧ fooOpen.tagLen = 0) ∧ (fooBar.tState = .opened ∧ fooBar.tagLen ≠ 0)
      ∧ fooBarZap.tState = .tag ∧ emptyTag.tState = .noTag
      ∧ (∃ t, exec (.byte 0x7D#8) fooOpen = .next t) ∧ (∃ t, exec (.byte 0x7D#8) fooBar = .next t)
      ∧ (∃ t, exec (.byte 0x7B#8) base = .next t) ∧ (∃ t, exec (.byte 0x7D#8) emptyTag = .next t)
      ∧ (∃ t, exec (.byte 0x7B#8) fooBarZap = .next t) ∧ (∃ t, exec .endKey fooBarZap = .next t) :=
  ⟨by decide, by decide, by decide, rfl, rfl, ⟨_, rfl⟩, ⟨_, rfl⟩, ⟨_, rfl⟩, ⟨_, rfl⟩, ⟨_, rfl⟩, ⟨_, rfl⟩⟩

/-- EndResolvesTheSlot, EmptyEndConsumesOneDraw, EntropyIsReadByEmptyEndOnly, EndIsIdempotentOnANonEmptyKey: an empty
key, a key with a tag, keys without one, at KEY_LEN 0, 1 and SATMAX. -/
theorem test_witness_end :
    base.keyLen = 0 ∧ (fooBarZap.keyLen ≠ 0 ∧ fooBarZap.tState = .tag) ∧ (foo.keyLen ≠ 0 ∧ foo.tState ≠ .tag)
      ∧ (full.keyLen ≠ 0 ∧ full.keyLen = satMax full.lenW ∧ full.tState ≠ .tag) ∧ 1 ≤ foo.lenW
      ∧ ({ base with keyLen := 1 } : State).keyLen ≠ 0
      ∧ ¬ ((0x3000#16 : Word) = 0x3000#16 ∧ foo.keyLen = 0) ∧ ¬ ((0x3001#16 : Word) = 0x3000#16 ∧ base.keyLen = 0)
      ∧ (∃ t, exec .endKey foo = .next t) ∧ (∃ t, exec (.romrd 0x00#8) foo = .next t) :=
  ⟨rfl, by decide, by decide, by decide, by decide, by decide, by decide, by decide, ⟨_, rfl⟩, ⟨_, rfl⟩⟩

/-- DoneMarksValidResults, StepTracksTheKey, CountersSaturate (its last clause): the reset state tracks the empty key, with LEN_SAT = 0;
the next edge may present END. -/
theorem test_witness_tracks_empty :
    (atEdges [give 0x3000#16]).Tracks [] ∧ (atEdges [give 0x3000#16]).lenSat = false
      ∧ (after (step (atEdges [give 0x3000#16])) State.done) = some true := by
  refine ⟨⟨by decide, ⟨rfl, rfl, rfl, by decide, by decide, by decide, by decide, ?_, fun _ => rfl⟩, ?_⟩, rfl, by decide⟩
  · intro i h; cases h
  · intro h; cases h

/-- The same for the key "foo" before END, the next edge presenting END. -/
theorem test_witness_tracks_foo :
    ({ foo with edges := [give 0x3000#16] } : State).Tracks fooKey
      ∧ (after (step { foo with edges := [give 0x3000#16] }) State.done) = some true := by
  refine ⟨⟨by decide, ⟨by decide +kernel, rfl, rfl, by decide, by decide, by decide, by decide, ?_, fun _ => rfl⟩, ?_⟩,
    by decide⟩
  · intro i h; cases h
  · intro h; cases h

/-- TaggedAndRandomAreWrittenByEnd, IllIsSticky, RomDataIsWrittenByRomrd, LenSatRecordsSaturation and
OnlyNamedCommandsWrite: an edge for each clause. -/
theorem test_witness_written_by :
    ((give 0x3000#16).accepts = true ∧ decode (give 0x3000#16).cmd = .ok .endKey)
      ∧ ((give 0x4001#16).accepts = true ∧ decode (give 0x4001#16).cmd = .ok (.romrd 0x01#8))
      ∧ ((give 0x4001#16).rstN = true ∧ decode (give 0x4001#16).cmd ≠ .ok .endKey)
      ∧ (decode (give 0x3000#16).cmd ≠ .ok .start ∧ legalWord (give 0x3000#16).cmd = true)
      ∧ decode (give 0x0000#16).cmd ≠ .ok .start ∧ decode (give 0x0000#16).cmd ≠ .ok .endKey
      ∧ ({ full with lenSat := true, edges := [give 0x2061#16] } : State).lenSat = true
      ∧ decode (give 0x2061#16).cmd ≠ .ok .start := by
  decide

/-- The universally quantified hypotheses of those statements: a word that is neither BYTE nor ROMRD. -/
theorem test_witness_no_byte_no_romrd :
    (∀ b, decode (give 0x0000#16).cmd ≠ .ok (.byte b)) ∧ (∀ i, decode (give 0x0000#16).cmd ≠ .ok (.romrd i)) := by
  decide

/-- StatusShowsTheFlags, StepKeepsTheInvariant, PortsShowTheRegisters: states that meet the invariant, before and after
END, with a tag, and saturated. -/
theorem test_witness_invariant :
    (atEdges [give 0x2061#16]).Inv ∧ fooDone.Inv ∧ fooBarZap.Inv ∧ ({ full with lenSat := true } : State).Inv
      ∧ fooDone.WidthsOk ∧ full.WidthsOk := by
  refine ⟨⟨?_, ?_, ?_, ?_⟩, ⟨?_, ?_, ?_, ?_⟩, ⟨?_, ?_, ?_, ?_⟩, ⟨?_, ?_, ?_, ?_⟩, ?_, ?_⟩ <;> decide

/-- EffectiveKeyByLeastBraces: keys for each clause, with the pair as close as each clause allows. -/
theorem test_witness_EffectiveKeyByLeastBraces :
    (∀ i : Nat, ([0x7D#8] : List Byte)[i]? ≠ some 0x7B#8)
      ∧ (([0x7D#8, 0x7B#8] : List Byte)[1]? = some 0x7B#8
          ∧ (∀ i : Nat, i < 1 → ([0x7D#8, 0x7B#8] : List Byte)[i]? ≠ some 0x7B#8)
          ∧ ∀ j : Nat, 1 < j → ([0x7D#8, 0x7B#8] : List Byte)[j]? ≠ some 0x7D#8)
      ∧ (([0x7B#8, 0x7D#8] : List Byte)[1]? = some 0x7D#8
          ∧ ∀ j : Nat, 0 < j → j < 1 → ([0x7B#8, 0x7D#8] : List Byte)[j]? ≠ some 0x7D#8)
      ∧ (([0x7B#8, 0x61#8, 0x7D#8] : List Byte)[0]? = some 0x7B#8
          ∧ ([0x7B#8, 0x61#8, 0x7D#8] : List Byte)[2]? = some 0x7D#8
          ∧ ∀ j : Nat, 0 < j → j < 2 → ([0x7B#8, 0x61#8, 0x7D#8] : List Byte)[j]? ≠ some 0x7D#8) := by
  refine ⟨?_, ⟨rfl, by decide, ?_⟩, ⟨rfl, by omega⟩, rfl, rfl, ?_⟩
  · intro i; cases i <;> simp
  · intro j h; rw [List.getElem?_eq_none (show 2 ≤ j by omega)]; simp
  · intro j h h2; obtain rfl : j = 1 := by omega
    decide

/-- OnlyTheFirstPairDecides: one-byte tags and empty surroundings. -/
theorem test_witness_OnlyTheFirstPairDecides :
    ∃ pre tag post : List Byte, 0x7B#8 ∉ pre ∧ 0x7D#8 ∉ tag ∧ tag ≠ [] ∧ post = [0x7D#8] :=
  ⟨[], [0x7B#8], [0x7D#8], by decide⟩

/-- EffectiveKeyLaws, SlotFunctionProperties: a key with a tag, one without, and two keys with one effective key. -/
theorem test_witness_effective_keys :
    (effectiveKey [0x7B#8, 0x61#8, 0x7D#8]).tagged = true ∧ (effectiveKey [0x7B#8, 0x7D#8]).tagged = false
      ∧ effectiveBytes [0x7B#8, 0x61#8, 0x7D#8] = effectiveBytes [0x61#8] := by
  decide

/-- CrcArithmeticLaws: two equal checksums of two bytes, two equal low bytes of entries. -/
theorem test_witness_CrcArithmeticLaws :
    (∃ a b c d : Byte, crc16 [a, b] = crc16 [c, d]) ∧ (∃ i j : Byte, lowByte (rom i) = lowByte (rom j)) :=
  ⟨⟨0x00#8, 0x00#8, 0x00#8, 0x00#8, rfl⟩, ⟨0x00#8, 0x00#8, rfl⟩⟩

/-- ResetMeetsTheInvariant, StepTracksTheKey: the smallest legal LEN_W. -/
theorem test_witness_smallest_width : 1 ≤ (State.resetBuild 1).lenW := by decide

/-- CountersSaturate: KEY_LEN at SATMAX, one below it, and TAG_LEN at SATMAX. -/
theorem test_witness_CountersSaturate :
    (full.WidthsOk ∧ full.keyLen = satMax full.lenW)
      ∧ (({ full with keyLen := 2 } : State).WidthsOk ∧ ({ full with keyLen := 2 } : State).keyLen ≠ satMax full.lenW)
      ∧ (({ full with tState := .opened, tagLen := 3 } : State).WidthsOk)
      ∧ (∃ t, exec (.byte 0x61#8) full = .next t) ∧ (∃ t, exec .nop full = .next t) :=
  ⟨by decide, by decide, by decide, ⟨_, rfl⟩, ⟨_, rfl⟩⟩

/-- CommandsTakeEffectInOrder: two accepted commands, the first with a next state, and a command after an illegal word. -/
theorem test_witness_CommandsTakeEffectInOrder :
    (atEdges [give 0x2061#16, give 0x3000#16]).edges = give 0x2061#16 :: give 0x3000#16 :: []
      ∧ (give 0x2061#16).accepts = true ∧ (give 0x3000#16).accepts = true
      ∧ decode (give 0x2061#16).cmd = .ok (.byte 0x61#8) ∧ decode (give 0x3000#16).cmd = .ok .endKey
      ∧ (∃ t, exec (.byte 0x61#8) (atEdges [give 0x3000#16]) = .next t)
      ∧ (atEdges [give 0x5000#16, give 0x3000#16]).edges = give 0x5000#16 :: give 0x3000#16 :: []
      ∧ (give 0x5000#16).accepts = true ∧ legalWord (give 0x5000#16).cmd = false :=
  ⟨rfl, by decide, by decide, by decide, by decide, ⟨_, rfl⟩, rfl, by decide, by decide⟩

/-- StallsChangeNoResult: edges without reset, two of them accepting nothing. -/
theorem test_witness_StallsChangeNoResult :
    ∀ e ∈ [idleEdge, give 0x2061#16, stallEdge, give 0x3000#16], e.rstN = true := by decide

/-- KeySequenceComputesSlot, ResultsDependOnTheKeyAlone: a key of one byte, with NOP, ROMRD and an illegal word in
between, and the empty key. -/
theorem test_witness_KeySequenceComputesSlot :
    1 ≤ base.lenW
      ∧ (keyCommands [(0x5000#16, 1#14), (0x1000#16, 2#14), (0x0000#16, 3#14), (0x2061#16, 4#14), (0x4001#16, 5#14),
            (0x3000#16, 6#14), (0x0000#16, 7#14)]).map Prod.fst = slotWords [0x61#8]
      ∧ (keyCommands [(0x5000#16, 1#14), (0x1000#16, 2#14), (0x0000#16, 3#14), (0x2061#16, 4#14), (0x4001#16, 5#14),
            (0x3000#16, 6#14), (0x0000#16, 7#14)]).getLast?.map Prod.snd = some 6#14
      ∧ (keyCommands [(0x1000#16, 2#14), (0x3000#16, 6#14)]).map Prod.fst = slotWords []
      ∧ (keyCommands [(0x1000#16, 2#14), (0x3000#16, 6#14)]).getLast?.map Prod.snd = some 6#14
      ∧ ([0x61#8] : List Byte) ≠ [] ∧ ([0x61#8] : List Byte).length ≤ satMax 1 := by
  decide

/-- EndDoesNotEndTheKey: a first part that is empty, and one that is not. -/
theorem test_witness_EndDoesNotEndTheKey :
    ([(0x1000#16, 0#14), (0x3000#16, 1#14)] : List (Word × SlotNo)).map Prod.fst = slotWords []
      ∧ ([(0x1000#16, 0#14), (0x2061#16, 0#14), (0x3000#16, 1#14)] : List (Word × SlotNo)).map Prod.fst
          = slotWords [0x61#8]
      ∧ ([(0x2062#16, 0#14), (0x3000#16, 1#14)] : List (Word × SlotNo)).map Prod.fst
          = keyWords [0x62#8] ++ [0x3000#16]
      ∧ ([(0x1000#16, 0#14), (0x2061#16, 0#14), (0x2062#16, 0#14), (0x3000#16, 1#14)] : List (Word × SlotNo)).map
          Prod.fst = slotWords ([0x61#8] ++ [0x62#8])
      ∧ ([0x61#8] ++ [0x62#8] : List Byte) ≠ [] := by
  decide

/-- OperandRangeIsAnAssemblyError: both sides of the boundary. -/
theorem test_witness_OperandRangeIsAnAssemblyError : 255 < 256 ∧ 255 ≤ 255 ∧ 0 ≤ 255 := by decide

/-- PseudoInstructionsExpand: an illegal word; a line that is not .word and assembles. -/
theorem test_witness_PseudoInstructionsExpand :
    legalWord 0x5000#16 = false
      ∧ ∃ ws, (∀ n, SourceLine.byte 255 ≠ .word n) ∧ assembleLine (.byte 255) = .ok ws :=
  ⟨by decide, _, fun n h => SourceLine.noConfusion h, rfl⟩

end Sys2Proof.Tests
end

section
/-! PROOFS. The layer below the state obligations: which register group each command, and each edge, leaves as it
was. -/

namespace Sys2Proof.Machine

/-! ### The register groups of 10_state.md R26 -/

/-- The accumulator group, which START and BYTE write. -/
def State.accumulators (s : State) : Word × Word × TState × Nat × Nat × Nat × Bool :=
  (s.crcKey, s.crcTag, s.tState, s.keyLen, s.tagOpen, s.tagLen, s.lenSat)

/-- The result group without DONE, which END writes. -/
def State.results (s : State) : SlotNo × Word × Nat × Nat × Bool × Bool :=
  (s.slot, s.crcEff, s.effStart, s.effLen, s.tagged, s.random)

theorem accumulators_eq_iff {s t : State} :
    t.accumulators = s.accumulators ↔
      t.crcKey = s.crcKey ∧ t.crcTag = s.crcTag ∧ t.tState = s.tState ∧ t.keyLen = s.keyLen
        ∧ t.tagOpen = s.tagOpen ∧ t.tagLen = s.tagLen ∧ t.lenSat = s.lenSat := by
  simp [State.accumulators]

theorem results_eq_iff {s t : State} :
    t.results = s.results ↔
      t.slot = s.slot ∧ t.crcEff = s.crcEff ∧ t.effStart = s.effStart ∧ t.effLen = s.effLen
        ∧ t.tagged = s.tagged ∧ t.random = s.random := by
  simp [State.results]

/-! ### What a command leaves as it was -/

section
variable {i : Instr} {s t : State}

theorem exec_accumulators (hs : i ≠ .start) (hb : ∀ b, i ≠ .byte b) (h : exec i s = .next t) :
    t.accumulators = s.accumulators := by
  rcases exec_cases h with ⟨-, rfl⟩ | ⟨hi, -⟩ | ⟨b, hi, -⟩ | ⟨-, ⟨-, rfl⟩ | ⟨-, -, rfl⟩ | ⟨-, -, rfl⟩⟩ | ⟨n, -, rfl⟩
  · rfl
  · exact absurd hi hs
  · exact absurd hi (hb b)
  all_goals rfl

theorem exec_results (he : i ≠ .endKey) (h : exec i s = .next t) : t.results = s.results := by
  rcases exec_cases h with ⟨-, rfl⟩ | ⟨-, rfl⟩ | ⟨b, -, rfl⟩ | ⟨hi, -⟩ | ⟨n, -, rfl⟩
  · rfl
  · rfl
  · simp [results_eq_iff]
  · exact absurd hi he
  · rfl

theorem exec_romData (hr : ∀ n, i ≠ .romrd n) (h : exec i s = .next t) : t.romData = s.romData := by
  rcases exec_cases h with ⟨-, rfl⟩ | ⟨-, rfl⟩ | ⟨b, -, rfl⟩ | ⟨-, ⟨-, rfl⟩ | ⟨-, -, rfl⟩ | ⟨-, -, rfl⟩⟩ | ⟨n, hi, -⟩
  · rfl
  · rfl
  · exact scanByte_romData s b
  · rfl
  · rfl
  · rfl
  · exact absurd hi (hr n)

/-- No command writes ILL: only an illegal word does (10_state.md R38). -/
theorem exec_ill (h : exec i s = .next t) : t.ill = s.ill := by
  rcases exec_cases h with ⟨-, rfl⟩ | ⟨-, rfl⟩ | ⟨b, -, rfl⟩ | ⟨-, ⟨-, rfl⟩ | ⟨-, -, rfl⟩ | ⟨-, -, rfl⟩⟩ | ⟨n, -, rfl⟩ <;>
    simp [resolveEmpty, resolveTag, resolveWhole]

/-! ### What a command writes -/

/-- DONE after a command (10_state.md R34). -/
theorem exec_done (h : exec i s = .next t) :
    t.done = match i with
      | .start | .byte _ => false
      | .endKey => true
      | .nop | .romrd _ => s.done := by
  rcases exec_cases h with ⟨rfl, rfl⟩ | ⟨rfl, rfl⟩ | ⟨b, rfl, rfl⟩ | ⟨rfl, ⟨-, rfl⟩ | ⟨-, -, rfl⟩ | ⟨-, -, rfl⟩⟩ |
    ⟨n, rfl, rfl⟩ <;> rfl

/-- The values of `rnd` consumed after a command (10_state.md R43). -/
theorem exec_draws (h : exec i s = .next t) :
    t.draws = if i = .endKey ∧ s.keyLen = 0 then s.draws + 1 else s.draws := by
  rcases exec_cases h with ⟨rfl, rfl⟩ | ⟨rfl, rfl⟩ | ⟨b, rfl, rfl⟩ | ⟨rfl, ⟨hk, rfl⟩ | ⟨hk, -, rfl⟩ | ⟨hk, -, rfl⟩⟩ |
    ⟨n, rfl, rfl⟩ <;> simp [resolveEmpty, resolveTag, resolveWhole, *]

theorem exec_endKey_tagged (h : exec .endKey s = .next t) :
    t.tagged = true ↔ s.keyLen ≠ 0 ∧ s.tState = .tag := by
  rcases exec_endKey_cases h with ⟨hk, rfl⟩ | ⟨hk, ht, rfl⟩ | ⟨hk, ht, rfl⟩ <;>
    simp [resolveEmpty, resolveTag, resolveWhole, *]

theorem exec_endKey_random (h : exec .endKey s = .next t) : t.random = true ↔ s.keyLen = 0 := by
  rcases exec_endKey_cases h with ⟨hk, rfl⟩ | ⟨hk, -, rfl⟩ | ⟨hk, -, rfl⟩ <;>
    simp [resolveEmpty, resolveTag, resolveWhole, hk]

theorem lenSatAfterByte_iff : lenSatAfterByte s = true ↔ s.lenSat = true ∨ s.keyLen = satMax s.lenW := by
  unfold lenSatAfterByte
  split <;> simp [*]

theorem exec_byte_lenSat {b : Byte} (h : exec (.byte b) s = .next t) :
    t.lenSat = true ↔ s.lenSat = true ∨ s.keyLen = satMax s.lenW := by
  cases h
  exact lenSatAfterByte_iff

/-- Only START clears LEN_SAT (10_state.md R37). -/
theorem exec_lenSat_mono (hs : i ≠ .start) (h : exec i s = .next t) (hl : s.lenSat = true) : t.lenSat = true := by
  by_cases hb : ∃ b, i = .byte b
  · obtain ⟨b, rfl⟩ := hb
    exact (exec_byte_lenSat h).2 (.inl hl)
  · obtain ⟨-, -, -, -, -, -, heq⟩ :=
      accumulators_eq_iff.1 (exec_accumulators hs (fun b hi => hb ⟨b, hi⟩) h)
    rw [heq, hl]

theorem exec_completes (i : Instr) (s : State) : ∃ t, exec i s = .next t := by
  cases i <;> exact ⟨_, rfl⟩

end

/-! ### What a listed edge leaves as it was -/

section
variable {s t : State} {e : Edge} {rest : List Edge}

/-- In reset no word is accepted (10_state.md R22, R44). -/
theorem accepts_of_reset (h : e.rstN = false) : e.accepts = false := by
  simp [Edge.accepts, h]

theorem clockEdge_of_accepts (ha : e.accepts = true) (s : State) : clockEdge e s = acceptWord e.cmd e.rnd s := by
  simp [clockEdge, ha, ((accepts_iff e).1 ha).1]

theorem clockEdge_of_not_accepts (hr : e.rstN = true) (ha : e.accepts = false) (s : State) :
    clockEdge e s = .next s := by
  simp [clockEdge, hr, ha]

/-- An edge that accepts a command's word runs the command. -/
theorem step_of_accepts {i : Instr} (hs : s.edges = e :: rest) (ha : e.accepts = true) (hd : decode e.cmd = .ok i) :
    step s = exec i { s with edges := rest, rnd := e.rnd } := by
  rw [step_cons hs, clockEdge_of_accepts ha, acceptWord_ok hd]

/-- An edge outside reset keeps a view of the registers that reads neither port fields nor anything the accepted word
writes. -/
theorem step_keeps {α : Type} {f : State → α} (hs : s.edges = e :: rest) (hr : e.rstN = true)
    (h : step s = .next t) (henv : ∀ u es r, f { u with edges := es, rnd := r } = f u)
    (hexec : ∀ i u v, e.accepts = true → decode e.cmd = .ok i → exec i u = .next v → f v = f u)
    (hill : ∀ u, f (raiseIllegalCommand u) = f u) : f t = f s := by
  rcases step_cons_cases hs h with ⟨h0, -⟩ | ⟨-, ha, i, hd, hi⟩ | ⟨-, -, x, -, rfl⟩ | ⟨-, -, rfl⟩
  · simp [hr] at h0
  · rw [hexec i _ t ha hd hi, henv]
  · rw [hill, henv]
  · exact henv s rest s.rnd

theorem step_accumulators (hs : s.edges = e :: rest) (hr : e.rstN = true) (h : step s = .next t)
    (hw : e.accepts = false ∨ (decode e.cmd ≠ .ok .start ∧ ∀ b, decode e.cmd ≠ .ok (.byte b))) :
    t.accumulators = s.accumulators := by
  refine step_keeps hs hr h (fun _ _ _ => rfl) (fun i u v ha hd hi => ?_) (fun _ => rfl)
  obtain ⟨hstart, hbyte⟩ : i ≠ .start ∧ ∀ b, i ≠ .byte b := by simpa [ha, hd] using hw
  exact exec_accumulators hstart hbyte hi

theorem step_done (hs : s.edges = e :: rest) (hr : e.rstN = true) (h : step s = .next t)
    (hw : e.accepts = false
      ∨ (decode e.cmd ≠ .ok .start ∧ decode e.cmd ≠ .ok .endKey ∧ ∀ b, decode e.cmd ≠ .ok (.byte b))) :
    t.done = s.done := by
  refine step_keeps hs hr h (fun _ _ _ => rfl) (fun i u v ha hd hi => ?_) (fun _ => rfl)
  obtain ⟨hstart, hend, hbyte⟩ : i ≠ .start ∧ i ≠ .endKey ∧ ∀ b, i ≠ .byte b := by simpa [ha, hd] using hw
  rw [exec_done hi]
  cases i with
  | nop | romrd n => rfl
  | start => exact absurd rfl hstart
  | byte b => exact absurd rfl (hbyte b)
  | endKey => exact absurd rfl hend

theorem step_results (hs : s.edges = e :: rest) (hr : e.rstN = true) (h : step s = .next t)
    (hw : e.accepts = false ∨ decode e.cmd ≠ .ok .endKey) : t.results = s.results := by
  refine step_keeps hs hr h (fun _ _ _ => rfl) (fun i u v ha hd hi => ?_) (fun _ => rfl)
  exact exec_results (by simpa [ha, hd] using hw) hi

theorem step_romData (hs : s.edges = e :: rest) (hr : e.rstN = true) (h : step s = .next t)
    (hw : e.accepts = false ∨ ∀ i, decode e.cmd ≠ .ok (.romrd i)) : t.romData = s.romData := by
  refine step_keeps hs hr h (fun _ _ _ => rfl) (fun i u v ha hd hi => ?_) (fun _ => rfl)
  exact exec_romData (by simpa [ha, hd] using hw) hi

theorem step_reset (hs : s.edges = e :: rest) (hr : e.rstN = false) (h : step s = .next t) :
    t = resetRegisters { s with edges := rest } := by
  rcases step_cons_cases hs h with ⟨-, ht⟩ | ⟨h1, -⟩ | ⟨h1, -⟩ | ⟨h1, -⟩
  · exact ht
  all_goals simp [hr] at h1

theorem step_edges (hs : s.edges = e :: rest) (h : step s = .next t) : t.edges = rest := by
  rcases step_cons_cases hs h with ⟨-, rfl⟩ | ⟨-, -, i, -, hi⟩ | ⟨-, -, x, -, rfl⟩ | ⟨-, -, rfl⟩
  · rfl
  · exact exec_edges hi
  · rfl
  · rfl

/-- ILL after an edge outside reset: set by an accepted illegal word, else as it was (10_state.md R38). -/
theorem step_ill (hs : s.edges = e :: rest) (hr : e.rstN = true) (h : step s = .next t) :
    t.ill = (s.ill || (e.accepts && !legalWord e.cmd)) := by
  rcases step_cons_cases hs h with ⟨h0, -⟩ | ⟨-, -, i, hd, hi⟩ | ⟨-, ha, x, hd, rfl⟩ | ⟨-, ha, rfl⟩
  · simp [hr] at h0
  · simp [exec_ill hi, legalWord, hd]
  · simp [legalWord, hd, ha]
  · simp [ha]

end

end Sys2Proof.Machine
end

section
/-! PROOFS. The state obligations of 10_state.md, but for DONE and for stalls. -/

namespace Sys2Proof.Machine

theorem status_resetBuild (n : Nat) : status (State.resetBuild n) = 0x00#8 := by
  simp [status, State.resetBuild, TState.code]

/-- Settles O11: every register's reset value is written in `State.resetBuild`. -/
theorem resetStateIsAllZero : Obligations.ResetStateIsAllZero := by
  intro n
  refine ⟨rfl, rfl, rfl, rfl, rfl, rfl, rfl, rfl, rfl, rfl, rfl, rfl, rfl, rfl, rfl, rfl,
    status_resetBuild n⟩

/-- Settles O23, from what END writes and from the frame of the result registers. -/
theorem taggedAndRandomAreWrittenByEnd : Obligations.TaggedAndRandomAreWrittenByEnd := by
  intro s t e rest hs h
  refine ⟨fun hr => ?_, fun ha hd => ?_, fun hr hw => ?_⟩
  · rw [step_reset hs hr h]; exact ⟨rfl, rfl⟩
  · rw [step_of_accepts hs ha hd] at h
    exact ⟨(exec_endKey_tagged h :), (exec_endKey_random h :)⟩
  · obtain ⟨-, -, -, -, htag, hrand⟩ := results_eq_iff.1 (step_results hs hr h hw)
    exact ⟨htag, hrand⟩

/-- Settles O24, from what an edge outside reset leaves in ILL. -/
theorem illIsSticky : Obligations.IllIsSticky := by
  intro s t e rest hs h
  refine ⟨fun hr => ?_, fun hr => step_ill hs hr h⟩
  rw [step_reset hs hr h, resetRegisters_ill]

/-- Settles O25, from what ROMRD writes and from the frame of ROM_DATA. -/
theorem romDataIsWrittenByRomrd : Obligations.RomDataIsWrittenByRomrd := by
  intro s t e rest hs h
  refine ⟨fun hr => ?_, fun i ha hd => ?_, fun hr hw => step_romData hs hr h hw⟩
  · rw [step_reset hs hr h, resetRegisters_romData]
  · rw [step_of_accepts hs ha hd, exec_romrd] at h
    cases h
    exact writeRomData_romData _ _

/-- Settles O26: a BYTE at SATMAX sets LEN_SAT, and no command but START clears it. -/
theorem lenSatRecordsSaturation : Obligations.LenSatRecordsSaturation := by
  refine ⟨fun s t h => ?_, fun b s t h => exec_byte_lenSat h, fun s t e rest hs h hr hw hl => ?_,
    resetRegisters_lenSat⟩
  · cases h; exact clearAccumulators_lenSat s
  · rcases step_cons_cases hs h with ⟨h0, -⟩ | ⟨-, ha, i, hd, hi⟩ | ⟨-, -, x, -, rfl⟩ | ⟨-, -, rfl⟩
    · simp [hr] at h0
    · exact exec_lenSat_mono (by simpa [ha, hd] using hw) hi hl
    · exact hl
    · exact hl

/-- Settles O27: the frame of each register group at an edge outside reset. -/
theorem onlyNamedCommandsWrite : Obligations.OnlyNamedCommandsWrite := by
  intro s t e rest hs hr h
  refine ⟨fun hw => accumulators_eq_iff.1 (step_accumulators hs hr h hw), fun hw => step_done hs hr h hw,
    fun hw => results_eq_iff.1 (step_results hs hr h hw), fun hw => step_romData hs hr h hw, fun hw => ?_⟩
  rw [step_ill hs hr h]
  rcases hw with ha | hl
  · simp [ha]
  · simp [hl]

/-! ### STATUS and the ports -/

/-- The bits of STATUS by its fields (10_state.md R33). -/
theorem status_bits (s : State) :
    (status s).getLsbD 0 = s.done ∧ (status s).getLsbD 1 = s.tagged ∧ (status s).getLsbD 2 = s.random
      ∧ (status s).getLsbD 3 = s.lenSat ∧ (status s).getLsbD 4 = s.ill
      ∧ (status s).extractLsb' 5 2 = s.tState.code ∧ (status s).getLsbD 7 = false := by
  unfold status
  generalize s.done = d, s.tagged = t, s.random = r, s.lenSat = l, s.ill = i, s.tState.code = c
  revert d t r l i c
  decide

/-- TAGGED and RANDOM are not both 1 in a state the invariant's result part holds of, nor after a step from it. -/
theorem step_not_tagged_and_random {s t : State} (hi : s.ResultsOk) (h : step s = .next t) :
    ¬ (t.tagged = true ∧ t.random = true) := by
  obtain ⟨hex, -⟩ := hi
  rcases step_cases h with ⟨-, rfl⟩ | ⟨e, rest, hs, -⟩
  · exact hex
  · obtain ⟨hreset, hend, hkeep⟩ := taggedAndRandomAreWrittenByEnd s t e rest hs h
    by_cases hr : e.rstN = true
    · by_cases hw : e.accepts = false ∨ decode e.cmd ≠ .ok .endKey
      · obtain ⟨htag, hrand⟩ := hkeep hr hw
        rwa [htag, hrand]
      · push Not at hw
        obtain ⟨htag, hrand⟩ := hend (by simpa using hw.1) hw.2
        rw [htag, hrand]
        exact fun hc => hc.1.1 hc.2
    · obtain ⟨htag, -⟩ := hreset (by simpa using hr)
      simp [htag]

/-- Settles O28, bit by bit, and from who writes TAGGED and RANDOM. -/
theorem statusShowsTheFlags : Obligations.StatusShowsTheFlags := by
  refine ⟨status_bits, status_resetBuild, fun s t ⟨_, _, hres, _⟩ h => ?_⟩
  obtain ⟨-, htag, hrand, -⟩ := status_bits t
  rw [htag, hrand]
  exact step_not_tagged_and_random hres h

/-- A number that fits LEN_W is shown whole on a port of LEN_W bits. -/
theorem toNat_ofNat_of_le_satMax {n v : Nat} (h : v ≤ satMax n) : (BitVec.ofNat n v).toNat = v := by
  rw [BitVec.toNat_ofNat, Nat.mod_eq_of_lt (lt_two_pow_of_le_satMax h)]

/-- Settles O29: the length registers fit their ports. -/
theorem portsShowTheRegisters : Obligations.PortsShowTheRegisters := by
  intro s e ⟨_, hkey, _, _, hstart, hlen⟩
  exact ⟨rfl, rfl, rfl, toNat_ofNat_of_le_satMax hkey, toNat_ofNat_of_le_satMax hstart,
    toNat_ofNat_of_le_satMax hlen, rfl, rfl⟩

/-! ### The draw -/

/-- One word spells END (30_encoding.md R65). -/
theorem decode_eq_endKey_iff (w : Word) : decode w = .ok .endKey ↔ w = 0x3000#16 := by
  constructor
  · intro h
    rw [decode_toNat] at h
    apply BitVec.eq_of_toNat_eq
    show w.toNat = 12288
    repeat' split at h
    all_goals simp at h
    omega
  · rintro rfl; decide

theorem rndTake_iff (s : State) (e : Edge) :
    rndTake s e = true ↔ e.accepts = true ∧ decode e.cmd = .ok .endKey ∧ s.keyLen = 0 := by
  simp [rndTake, decode_eq_endKey_iff, and_assoc]

/-- A listed edge counts one more consumed value exactly where rnd_take_o is 1. -/
theorem step_draws {s t : State} {e : Edge} {rest : List Edge} (hs : s.edges = e :: rest) (h : step s = .next t) :
    t.draws = if rndTake s e = true then s.draws + 1 else s.draws := by
  simp only [rndTake_iff]
  rcases step_cons_cases hs h with ⟨hr, rfl⟩ | ⟨-, ha, i, hd, hi⟩ | ⟨-, -, x, hd, rfl⟩ | ⟨-, ha, rfl⟩
  · simp [accepts_of_reset hr]
  · simp [exec_draws hi, ha, hd]
  · simp [hd]
  · simp [ha]

/-- Settles O30: rnd_take_o by the accepted word, and the counter of consumed values at each kind of edge. -/
theorem rndTakeMarksTheDraw : Obligations.RndTakeMarksTheDraw := by
  refine ⟨fun s e => ⟨?_, fun hr => ?_⟩, fun s t e rest hs h => step_draws hs h⟩
  · calc (outputPorts s e).rndTakeO = true
        ↔ e.accepts = true ∧ decode e.cmd = .ok .endKey ∧ s.keyLen = 0 := rndTake_iff s e
      _ ↔ _ := by rw [accepts_iff, decode_eq_endKey_iff]; simp only [and_assoc]
  · show rndTake s e = false
    simp [rndTake, accepts_of_reset hr]

end Sys2Proof.Machine
end

section
/-! PROOFS. DONE: after END the result registers describe the key that the accumulators hold. -/

namespace Sys2Proof.Machine

/-! ### The effective key by the scan state -/

theorem effectiveKey_of_not_tag {k : List Byte} (h : scanStateOf k ≠ .tag) :
    effectiveKey k = { start := 0, len := k.length, tagged := false } := by
  unfold scanStateOf at h
  unfold effectiveKey
  cases ho : firstOpen k with
  | none => rfl
  | some i =>
    cases hc : closeAfter k i with
    | none => simp [hc]
    | some d => cases d with
      | zero => simp [hc]
      | succ d => simp [ho, hc] at h

theorem effectiveKey_of_tag {k : List Byte} (h : scanStateOf k = .tag) :
    ∃ i, firstOpen k = some i
      ∧ effectiveKey k = { start := i + 1, len := (candidateTag k).length, tagged := true }
      ∧ i + 1 + (candidateTag k).length ≤ k.length := by
  unfold scanStateOf at h
  cases ho : firstOpen k with
  | none => simp [ho] at h
  | some i =>
    cases hc : closeAfter k i with
    | none => simp [ho, hc] at h
    | some d => cases d with
      | zero => simp [ho, hc] at h
      | succ d =>
        have hd := closeAfter_lt hc
        have hlen : (candidateTag k).length = d + 1 := by
          rw [candidateTag_closed ho hc, List.length_take, Nat.min_eq_left hd.le]
        rw [List.length_drop] at hd
        exact ⟨i, rfl, by simp [effectiveKey, ho, hc, hlen], by omega⟩

/-! ### END on a tracked key -/

/-- KEY_LEN is 0 exactly for the empty key, whatever the length of the key. -/
theorem keyLen_eq_zero_iff {s : State} {k : List Byte} (hw : 1 ≤ s.lenW) (ha : s.Accumulates k) :
    s.keyLen = 0 ↔ k = [] := by
  obtain ⟨-, -, -, -, -, hlen, -⟩ := ha
  have := satMax_pos hw
  rw [hlen, ← List.length_eq_zero_iff]
  omega

/-- The draw describes the empty key. -/
theorem resolveEmpty_describes (s : State) : (resolveEmpty s).Describes [] :=
  ⟨fun _ => ⟨rfl, rfl, rfl, rfl, rfl⟩, fun h => absurd rfl h⟩

theorem resolveTag_describes {s : State} {k : List Byte} (hk : k ≠ []) (ha : s.Accumulates k) (ht : s.tState = .tag) :
    (resolveTag s).Describes k := by
  obtain ⟨-, hscan, hcrc, -, htagLen, -, -, hopen, -⟩ := ha
  obtain ⟨i, ho, hek, hle⟩ := effectiveKey_of_tag (hscan.symm.trans ht)
  have hbytes : effectiveBytes k = candidateTag k := effectiveBytes_tagged (by rw [hek])
  refine ⟨fun h => absurd h hk, fun _ => ⟨rfl, by rw [hek]; rfl, by rw [hbytes, ← hcrc]; rfl,
    by rw [hbytes, ← hcrc]; rfl, fun hfit => ?_⟩⟩
  have hopen := hopen i ho
  change k.length ≤ satMax s.lenW at hfit
  change sat s.lenW (s.tagOpen + 1) = _ ∧ s.tagLen = _
  rw [hek, hopen, htagLen]
  unfold sat
  constructor <;> dsimp only <;> omega

theorem resolveWhole_describes {s : State} {k : List Byte} (hk : k ≠ []) (ha : s.Accumulates k)
    (ht : s.tState ≠ .tag) : (resolveWhole s).Describes k := by
  obtain ⟨hcrc, hscan, -, -, -, hlen, -⟩ := ha
  have hek := effectiveKey_of_not_tag (hscan ▸ ht)
  have hbytes : effectiveBytes k = k := effectiveBytes_untagged (by rw [hek])
  refine ⟨fun h => absurd h hk, fun _ => ⟨rfl, by rw [hek]; rfl, by rw [hbytes, ← hcrc]; rfl,
    by rw [hbytes, ← hcrc]; rfl, fun hfit => ⟨by rw [hek]; rfl, ?_⟩⟩⟩
  rw [hek]
  exact hlen.trans (Nat.min_eq_left hfit)

/-- END writes result registers that describe the key the accumulators hold (10_state.md R34,
42_slot_resolver.md R94). -/
theorem exec_endKey_describes {s t : State} {k : List Byte} (hw : 1 ≤ s.lenW) (ha : s.Accumulates k)
    (h : exec .endKey s = .next t) : t.Describes k := by
  have hk := keyLen_eq_zero_iff hw ha
  rcases exec_endKey_cases h with ⟨h0, rfl⟩ | ⟨h1, ht, rfl⟩ | ⟨h1, ht, rfl⟩
  · rw [hk.1 h0]; exact resolveEmpty_describes s
  · exact resolveTag_describes (mt hk.2 h1) ha ht
  · exact resolveWhole_describes (mt hk.2 h1) ha ht

/-! ### The key across an edge -/

theorem keyAfterStep_cons {s : State} {e : Edge} {rest : List Edge} (hs : s.edges = e :: rest) (k : List Byte) :
    keyAfterStep s k = keyAfterEdge e k := by
  simp [keyAfterStep, hs]

theorem keyAfterEdge_of_accepts {e : Edge} {i : Instr} (ha : e.accepts = true) (hd : decode e.cmd = .ok i)
    (k : List Byte) :
    keyAfterEdge e k = match i with
      | .start => []
      | .byte b => k ++ [b]
      | .nop | .endKey | .romrd _ => k := by
  cases i <;> simp [keyAfterEdge, ha, hd, ((accepts_iff e).1 ha).1]

/-- Outside reset, only an accepted command can change the key. -/
theorem keyAfterEdge_of_no_command {e : Edge} (hr : e.rstN = true)
    (h : e.accepts = false ∨ ∃ x, decode e.cmd = .error x) (k : List Byte) : keyAfterEdge e k = k := by
  rcases h with ha | ⟨x, hd⟩
  · simp [keyAfterEdge, hr, ha]
  · simp [keyAfterEdge, hr, hd]

/-- The describing survives every command that keeps DONE at 1. -/
theorem exec_describes {i : Instr} {s t : State} {e : Edge} {k : List Byte} (hacc : e.accepts = true)
    (hd : decode e.cmd = .ok i) (h : exec i s = .next t) (hs : s.Tracks k) (hdone : t.done = true) :
    t.Describes (keyAfterEdge e k) := by
  obtain ⟨hw, ha, hdesc⟩ := hs
  have htd := exec_done h
  rw [keyAfterEdge_of_accepts hacc hd]
  cases i with
  | nop => cases h; exact hdesc hdone
  | start => simp [hdone] at htd
  | byte b => simp [hdone] at htd
  | endKey => exact exec_endKey_describes hw ha h
  | romrd n => cases h; exact hdesc hdone

theorem step_describes {s t : State} {k : List Byte} (htr : s.Tracks k) (h : step s = .next t)
    (hdone : t.done = true) : t.Describes (keyAfterStep s k) := by
  have ⟨_, _, hdesc⟩ := htr
  rcases step_cases h with ⟨he, rfl⟩ | ⟨e, rest, hs, -⟩
  · simpa [keyAfterStep, he] using hdesc hdone
  rw [keyAfterStep_cons hs]
  rcases step_cons_cases hs h with ⟨-, rfl⟩ | ⟨hr, ha, i, hd, hi⟩ | ⟨hr, ha, x, hd, rfl⟩ | ⟨hr, ha, rfl⟩
  · simp at hdone
  · exact exec_describes ha hd hi htr hdone
  · rw [keyAfterEdge_of_no_command hr (.inr ⟨x, hd⟩)]; exact hdesc hdone
  · rw [keyAfterEdge_of_no_command hr (.inl ha)]; exact hdesc hdone

/-- Settles O22: what each command leaves in DONE, and that while DONE is 1 the results describe the tracked key. -/
theorem doneMarksValidResults : Obligations.DoneMarksValidResults :=
  ⟨fun _ _ h => exec_done h, fun _ _ _ h => exec_done h, fun _ _ h => exec_done h, fun _ _ h => exec_done h,
    fun _ _ _ h => exec_done h, fun _ => ⟨rfl, rfl⟩, fun _ _ _ htr h hdone => step_describes htr h hdone⟩

end Sys2Proof.Machine
end

section
/-! PROOFS. Stalls: a run over edges without reset against the run over its accepted words, by a simulation that
relates two states with equal blocks. -/

namespace Sys2Proof.Machine

/-- States with equal blocks differ only in what the environment shows. -/
theorem eq_of_block_eq {s u : State} (h : s.block = u.block) :
    u = { s with rnd := u.rnd, draws := u.draws, edges := u.edges } := by
  cases s; cases u
  simpa [State.block, eq_comm] using h

/-- A command reads nothing of the environment but the value on `rnd`. -/
theorem exec_block {i : Instr} {s t v : State} {d : Nat} {es : List Edge} (h : exec i s = .next t)
    (h' : exec i { s with draws := d, edges := es } = .next v) : t.block = v.block := by
  cases i with
  | nop => cases h; cases h'; rfl
  | start => cases h; cases h'; rfl
  | byte b =>
    rw [exec_byte, scanByte_environment b s s.rnd d es] at h'
    cases h; cases h'; rfl
  | endKey =>
    rcases exec_endKey_cases h with ⟨h0, rfl⟩ | ⟨h1, ht, rfl⟩ | ⟨h1, ht, rfl⟩
    · rw [exec_endKey_empty (by exact h0)] at h'; cases h'; rfl
    · rw [exec_endKey_tag (by exact h1) (by exact ht)] at h'; cases h'; rfl
    · rw [exec_endKey_whole (by exact h1) (by exact ht)] at h'; cases h'; rfl
  | romrd n => cases h; cases h'; rfl

/-- Accepting one word, with one value on `rnd`, keeps blocks equal. -/
theorem acceptWord_block {s u : State} (hb : s.block = u.block) (w : Word) (r : SlotNo) :
    ∃ t v, acceptWord w r s = .next t ∧ acceptWord w r u = .next v ∧ t.block = v.block := by
  rw [eq_of_block_eq hb]
  cases hd : decode w with
  | ok i =>
    obtain ⟨t, ht⟩ := exec_completes i { s with rnd := r }
    obtain ⟨v, hv⟩ := exec_completes i { s with rnd := r, draws := u.draws, edges := u.edges }
    exact ⟨t, v, by rw [acceptWord_ok hd, ht], by rw [acceptWord_ok hd, ← hv], exec_block ht hv⟩
  | error x => exact ⟨_, _, acceptWord_error hd r s, acceptWord_error hd r _, rfl⟩

theorem acceptedWords_cons_of_accepts {e : Edge} (ha : e.accepts = true) (es : List Edge) :
    acceptedWords (e :: es) = (e.cmd, e.rnd) :: acceptedWords es := by
  simp [acceptedWords, ha]

theorem acceptedWords_cons_of_not_accepts {e : Edge} (ha : e.accepts = false) (es : List Edge) :
    acceptedWords (e :: es) = acceptedWords es := by
  simp [acceptedWords, ha]

theorem runSteps_succ {s t : State} (h : step s = .next t) (n : Nat) : runSteps (n + 1) s = runSteps n t := by
  simp [runSteps, h]

theorem runAccepted_cons {s t : State} {w : Word} {r : SlotNo} (h : acceptWord w r s = .next t)
    (ps : List (Word × SlotNo)) : runAccepted ((w, r) :: ps) s = runAccepted ps t := by
  simp [runAccepted, h]

/-- The simulation: from equal blocks, the edges of a list and its accepted words lead to equal blocks. -/
theorem runSteps_runAccepted_block (es : List Edge) (hr : ∀ e ∈ es, e.rstN = true) {s u : State}
    (hs : s.edges = es) (hb : s.block = u.block) :
    ∃ t v, runSteps es.length s = .next t ∧ runAccepted (acceptedWords es) u = .next v ∧ t.block = v.block := by
  induction es generalizing s u with
  | nil => exact ⟨s, u, rfl, rfl, hb⟩
  | cons e rest ih =>
    obtain ⟨hre, hrest⟩ := List.forall_mem_cons.1 hr
    have hstep := step_cons hs
    cases ha : e.accepts with
    | true =>
      obtain ⟨t, v, ht, hv, htv⟩ := acceptWord_block (s := { s with edges := rest }) hb e.cmd e.rnd
      have hst : step s = .next t := by rw [hstep, clockEdge_of_accepts ha, ht]
      rw [acceptedWords_cons_of_accepts ha, runAccepted_cons hv, List.length_cons, runSteps_succ hst]
      exact ih hrest (step_edges hs hst) htv
    | false =>
      have hst : step s = .next { s with edges := rest } := by
        rw [hstep, clockEdge_of_not_accepts hre ha]
      rw [acceptedWords_cons_of_not_accepts ha, List.length_cons, runSteps_succ hst]
      exact ih hrest rfl hb

/-- Settles O49, by the simulation started from one state. -/
theorem stallsChangeNoResult : Obligations.StallsChangeNoResult :=
  fun es s hr => runSteps_runAccepted_block es hr (s := { s with edges := es }) rfl rfl

end Sys2Proof.Machine
end

section
/-! PROOFS. The runs of 20_memory.md: commands in acceptance order, and END again. -/

namespace Sys2Proof.Machine

/-! ### Commands in acceptance order -/

theorem legalWord_eq_false_iff (w : Word) : legalWord w = false ↔ ∃ x, decode w = .error x := by
  cases hd : decode w <;> simp [legalWord, hd]

/-- An edge that accepts an illegal word raises the exception and nothing else (60_exceptions.md R107). -/
theorem step_of_illegal {s : State} {e : Edge} {rest : List Edge} (hs : s.edges = e :: rest) (ha : e.accepts = true)
    (hw : legalWord e.cmd = false) :
    step s = .next (raiseIllegalCommand { s with edges := rest, rnd := e.rnd }) := by
  obtain ⟨x, hd⟩ := (legalWord_eq_false_iff e.cmd).1 hw
  rw [step_cons hs, clockEdge_of_accepts ha, acceptWord_error hd]

theorem clockEdge_of_reset {e : Edge} (hr : e.rstN = false) (s : State) : clockEdge e s = .next (resetRegisters s) := by
  simp [clockEdge, hr]

/-- One edge, whatever it does, keeps blocks equal. -/
theorem clockEdge_block {s u : State} (hb : s.block = u.block) (e : Edge) :
    ∃ t v, clockEdge e s = .next t ∧ clockEdge e u = .next v ∧ t.block = v.block := by
  cases hr : e.rstN with
  | false =>
    refine ⟨_, _, clockEdge_of_reset hr s, clockEdge_of_reset hr u, ?_⟩
    rw [eq_of_block_eq hb]; rfl
  | true =>
    cases ha : e.accepts with
    | false => exact ⟨s, u, clockEdge_of_not_accepts hr ha s, clockEdge_of_not_accepts hr ha u, hb⟩
    | true =>
      rw [clockEdge_of_accepts ha, clockEdge_of_accepts ha]
      exact acceptWord_block hb e.cmd e.rnd

/-- Settles O48: each accepting edge is one run of its word, and one edge keeps blocks equal, so that the edges listed
behind it do not show in the block. -/
theorem commandsTakeEffectInOrder : Obligations.CommandsTakeEffectInOrder := by
  refine ⟨fun s t e f rest i j hs he hf hi hj ht => ?_, fun s e f rest j hs he hf hw hj => ?_,
    fun s e later later' => ?_⟩
  · have hst : step s = .next t := (step_of_accepts hs he hi).trans ht
    exact ⟨hst, step_of_accepts (step_edges hs hst) hf hj⟩
  · exact ⟨_, step_of_illegal hs he hw, step_of_accepts rfl hf hj⟩
  · exact clockEdge_block (s := { s with edges := later }) (u := { s with edges := later' }) rfl e

/-! ### END again -/

/-- The word of END runs END (30_encoding.md R65). -/
theorem acceptWord_endKey (r : SlotNo) (s : State) : acceptWord 0x3000#16 r s = exec .endKey { s with rnd := r } :=
  acceptWord_ok ((decode_eq_endKey_iff _).2 rfl) r s

/-- END of a non-empty key leaves a state that END, with any value on `rnd`, leaves as it is: it reads only the
accumulators, which it does not write. -/
theorem exec_endKey_again {s t : State} (hk : s.keyLen ≠ 0) (h : exec .endKey s = .next t) (r : SlotNo) :
    exec .endKey { t with rnd := r } = .next { t with rnd := r } := by
  rcases exec_endKey_cases h with ⟨h0, -⟩ | ⟨-, htag, rfl⟩ | ⟨-, htag, rfl⟩
  · exact absurd h0 hk
  · exact exec_endKey_tag hk htag
  · exact exec_endKey_whole hk htag

theorem acceptWord_endKey_empty {s : State} (hk : s.keyLen = 0) (r : SlotNo) :
    acceptWord 0x3000#16 r s = .next (resolveEmpty { s with rnd := r }) :=
  (acceptWord_endKey r s).trans (exec_endKey_empty hk)

/-- Two accepted words run one after the other. -/
theorem runAccepted_one_two {s t u : State} {w w' : Word} {r r' : SlotNo} (h : acceptWord w r s = .next t)
    (h' : acceptWord w' r' t = .next u) :
    runAccepted [(w, r)] s = .next t ∧ runAccepted [(w, r), (w', r')] s = .next u := by
  rw [runAccepted_cons h, runAccepted_cons h, runAccepted_cons h']
  exact ⟨rfl, rfl⟩

/-- Settles O53: on a non-empty key by `exec_endKey_again`; on an empty key the draw leaves KEY_LEN at 0, so that the
second END draws as well. -/
theorem endIsIdempotentOnANonEmptyKey : Obligations.EndIsIdempotentOnANonEmptyKey := by
  refine ⟨fun s r r' hk => ?_, fun s r r' hk => ?_⟩
  · obtain ⟨t, ht⟩ := exec_completes .endKey { s with rnd := r }
    have hagain : exec .endKey { t with rnd := r' } = .next { t with rnd := r' } :=
      exec_endKey_again (s := { s with rnd := r }) hk ht r'
    obtain ⟨h₁, h₂⟩ :=
      runAccepted_one_two ((acceptWord_endKey r s).trans ht) ((acceptWord_endKey r' t).trans hagain)
    exact ⟨t, _, h₁, h₂, rfl⟩
  · have hk' : (resolveEmpty { s with rnd := r }).keyLen = 0 := hk
    obtain ⟨h₁, h₂⟩ := runAccepted_one_two (acceptWord_endKey_empty hk r) (acceptWord_endKey_empty hk' r')
    exact ⟨_, _, h₁, h₂, rfl, rfl, rfl⟩

end Sys2Proof.Machine
end

section
/-! PROOFS. The command words of 30_encoding.md: what Decode answers by the fields of a word, the opcode map, how many
words each class has, and the operand range of the assembler. -/

namespace Sys2Proof.Machine

/-! ### Decode and encode -/

theorem decode_encode (i : Instr) : decode (encode i) = .ok i := by
  cases i <;> simp [decode, encode, fieldRsv_packWord, fieldOp_packWord, fieldImm8_packWord]

/-- A packed word, by the number it is. -/
theorem packWord_eq_iff {op : BitVec 4} {b : Byte} {w : Word} :
    packWord op b = w ↔ w.toNat = op.toNat * 4096 + b.toNat := by
  rw [← BitVec.toNat_inj, packWord_toNat, eq_comm]

/-- Everything Decode can answer, by the fields of the word (30_encoding.md R66, R67). -/
theorem decode_cases (w : Word) :
    (decode w = .error .reservedBits ∧ w.toNat / 256 % 16 ≠ 0)
      ∨ (decode w = .error .reservedOpcode ∧ w.toNat / 256 % 16 = 0 ∧ 5 ≤ w.toNat / 4096)
      ∨ (decode w = .error .operandNotZero ∧ w.toNat / 256 % 16 = 0
          ∧ (w.toNat / 4096 = 0 ∨ w.toNat / 4096 = 1 ∨ w.toNat / 4096 = 3) ∧ w.toNat % 256 ≠ 0)
      ∨ (∃ i, decode w = .ok i ∧ encode i = w ∧ w.toNat / 256 % 16 = 0 ∧ w.toNat / 4096 < 5
          ∧ (w.toNat / 4096 = 2 ∨ w.toNat / 4096 = 4 ∨ w.toNat % 256 = 0)) := by
  by_cases hrsv : w.toNat / 256 % 16 = 0
  case neg => exact .inl ⟨by simp [decode_toNat, hrsv], hrsv⟩
  have hpack {op : BitVec 4} {b : Byte} (hop : w.toNat / 4096 = op.toNat) (himm : w.toNat % 256 = b.toNat) :
      packWord op b = w := packWord_eq_iff.2 (by omega)
  rw [decode_toNat, if_neg (not_not.2 hrsv)]
  split_ifs with h0 hz h1 hz h2 h3 hz h4
  · exact .inr (.inr (.inr ⟨_, rfl, hpack h0 hz, by omega⟩))
  · exact .inr (.inr (.inl ⟨rfl, by omega⟩))
  · exact .inr (.inr (.inr ⟨_, rfl, hpack h1 hz, by omega⟩))
  · exact .inr (.inr (.inl ⟨rfl, by omega⟩))
  · exact .inr (.inr (.inr ⟨_, rfl, hpack h2 (fieldImm8_toNat w).symm, by omega⟩))
  · exact .inr (.inr (.inr ⟨_, rfl, hpack h3 hz, by omega⟩))
  · exact .inr (.inr (.inl ⟨rfl, by omega⟩))
  · exact .inr (.inr (.inr ⟨_, rfl, hpack h4 (fieldImm8_toNat w).symm, by omega⟩))
  · exact .inr (.inl ⟨rfl, by omega⟩)

theorem encode_of_decode {w : Word} {i : Instr} (h : decode w = .ok i) : encode i = w := by
  rcases decode_cases w with ⟨hd, -⟩ | ⟨hd, -⟩ | ⟨hd, -⟩ | ⟨j, hd, hj, -⟩
  · simp [hd] at h
  · simp [hd] at h
  · simp [hd] at h
  · cases hd.symm.trans h; exact hj

/-- Settles O1: `decode_encode` one way, `encode_of_decode` the other. -/
theorem decodeInvertsEncode : Obligations.DecodeInvertsEncode :=
  fun _ i => ⟨encode_of_decode, fun h => h ▸ decode_encode i⟩

/-! ### The three classes of illegal words -/

theorem decode_eq_reservedBits_iff (w : Word) :
    decode w = .error .reservedBits ↔ w.toNat / 256 % 16 ≠ 0 := by
  rcases decode_cases w with ⟨hd, h⟩ | ⟨hd, h, -⟩ | ⟨hd, h, -⟩ | ⟨i, hd, -, h, -⟩ <;> simp [hd, h]

theorem decode_eq_reservedOpcode_iff (w : Word) :
    decode w = .error .reservedOpcode ↔ w.toNat / 256 % 16 = 0 ∧ 5 ≤ w.toNat / 4096 := by
  rcases decode_cases w with ⟨hd, h⟩ | ⟨hd, h⟩ | ⟨hd, h⟩ | ⟨i, hd, -, h⟩ <;> simp [hd] <;> omega

theorem decode_eq_operandNotZero_iff (w : Word) :
    decode w = .error .operandNotZero ↔
      w.toNat / 256 % 16 = 0
        ∧ (w.toNat / 4096 = 0 ∨ w.toNat / 4096 = 1 ∨ w.toNat / 4096 = 3) ∧ w.toNat % 256 ≠ 0 := by
  rcases decode_cases w with ⟨hd, h⟩ | ⟨hd, h⟩ | ⟨hd, h⟩ | ⟨i, hd, -, h⟩ <;> simp [hd] <;> omega

/-! ### Counting words -/

theorem countP_range_eq_card (q : ℕ → Bool) (n : ℕ) :
    (List.range n).countP q = ((Finset.range n).filter (fun k => q k = true)).card := by
  rw [List.countP_eq_length_filter, Finset.card_def, Finset.filter_val, Finset.range_val, ← Multiset.coe_range,
    Multiset.filter_coe, Multiset.coe_card]
  simp only [Bool.decide_eq_true]

theorem countWords_eq_card (p : Word → Bool) :
    countWords p = ((Finset.range 65536).filter (fun n => p (BitVec.ofNat 16 n) = true)).card :=
  countP_range_eq_card _ _

theorem countWords_eq_sum (p : Word → Bool) :
    countWords p = ∑ n ∈ Finset.range 65536, (p (BitVec.ofNat 16 n)).toNat := by
  rw [countWords_eq_card, Finset.card_filter]
  exact Finset.sum_congr rfl fun n _ => by cases p (BitVec.ofNat 16 n) <;> rfl

/-- The words of a test that divides into three others. -/
theorem countWords_eq_add {t p q r : Word → Bool}
    (h : ∀ w, (t w).toNat = (p w).toNat + (q w).toNat + (r w).toNat) :
    countWords t = countWords p + countWords q + countWords r := by
  simp only [countWords_eq_sum, h, Finset.sum_add_distrib]

theorem countWords_add_not (p : Word → Bool) : countWords p + countWords (fun w => !p w) = 65536 := by
  have h := List.length_eq_countP_add_countP (fun n => p (BitVec.ofNat 16 n)) (l := List.range 65536)
  simpa [countWords] using h.symm

/-- The fields of a word, as numbers, and the word they make. -/
theorem fields_of_sum {op rsv imm : ℕ} (hop : op < 16) (hrsv : rsv < 16) (himm : imm < 256) :
    op * 4096 + rsv * 256 + imm < 65536 ∧ (op * 4096 + rsv * 256 + imm) / 4096 = op
      ∧ (op * 4096 + rsv * 256 + imm) / 256 % 16 = rsv ∧ (op * 4096 + rsv * 256 + imm) % 256 = imm := by
  omega

/-- Words given by a set of values for each field are as many as the choices of the fields. -/
theorem countWords_of_fields {p : Word → Bool} {ops rsvs imms : Finset ℕ} (hops : ops ⊆ Finset.range 16)
    (hrsvs : rsvs ⊆ Finset.range 16) (himms : imms ⊆ Finset.range 256)
    (hp : ∀ w : Word,
      p w = true ↔ w.toNat / 4096 ∈ ops ∧ w.toNat / 256 % 16 ∈ rsvs ∧ w.toNat % 256 ∈ imms) :
    countWords p = ops.card * (rsvs.card * imms.card) := by
  have hofNat {n : ℕ} (hn : n < 65536) : (BitVec.ofNat 16 n).toNat = n := Nat.mod_eq_of_lt hn
  have hfields {f : ℕ × ℕ × ℕ} (hf : f ∈ ops ×ˢ rsvs ×ˢ imms) :=
    have ⟨ho, hr, hi⟩ : f.1 ∈ ops ∧ f.2.1 ∈ rsvs ∧ f.2.2 ∈ imms := by simpa using hf
    fields_of_sum (Finset.mem_range.1 (hops ho)) (Finset.mem_range.1 (hrsvs hr)) (Finset.mem_range.1 (himms hi))
  rw [countWords_eq_card, ← Finset.card_product, ← Finset.card_product]
  refine Finset.card_nbij' (fun n => (n / 4096, n / 256 % 16, n % 256))
    (fun f => f.1 * 4096 + f.2.1 * 256 + f.2.2) (fun n hn => ?_) (fun f hf => ?_) (fun n _ => ?_) (fun f hf => ?_)
  · obtain ⟨hlt, hpn⟩ := Finset.mem_filter.1 hn
    simpa [hp, hofNat (Finset.mem_range.1 hlt)] using hpn
  · obtain ⟨hlt, hop, hrsv, himm⟩ := hfields hf
    rw [Finset.mem_coe, Finset.mem_filter, hp, hofNat hlt, hop, hrsv, himm]
    exact ⟨Finset.mem_range.2 hlt, by simpa using hf⟩
  · simp only; omega
  · obtain ⟨-, hop, hrsv, himm⟩ := hfields hf
    simp only [hop, hrsv, himm]

theorem countWords_reservedBits : countWords (fun w => decide (decode w = .error .reservedBits)) = 61440 := by
  have hfields (w : Word) : decide (decode w = .error .reservedBits) = true ↔ w.toNat / 4096 ∈ Finset.range 16
      ∧ w.toNat / 256 % 16 ∈ Finset.Ico 1 16 ∧ w.toNat % 256 ∈ Finset.range 256 := by
    have := w.isLt
    simp only [decide_eq_true_eq, decode_eq_reservedBits_iff, Finset.mem_range, Finset.mem_Ico]; omega
  rw [countWords_of_fields (by decide) (by decide) subset_rfl hfields]
  simp

theorem countWords_reservedOpcode : countWords (fun w => decide (decode w = .error .reservedOpcode)) = 2816 := by
  have hfields (w : Word) : decide (decode w = .error .reservedOpcode) = true ↔ w.toNat / 4096 ∈ Finset.Ico 5 16
      ∧ w.toNat / 256 % 16 ∈ ({0} : Finset ℕ) ∧ w.toNat % 256 ∈ Finset.range 256 := by
    have := w.isLt
    simp only [decide_eq_true_eq, decode_eq_reservedOpcode_iff, Finset.mem_range, Finset.mem_Ico,
      Finset.mem_singleton]; omega
  rw [countWords_of_fields (by decide) (by decide) subset_rfl hfields]
  simp

theorem countWords_operandNotZero : countWords (fun w => decide (decode w = .error .operandNotZero)) = 765 := by
  have hfields (w : Word) : decide (decode w = .error .operandNotZero) = true ↔
      w.toNat / 4096 ∈ ({0, 1, 3} : Finset ℕ) ∧ w.toNat / 256 % 16 ∈ ({0} : Finset ℕ)
        ∧ w.toNat % 256 ∈ Finset.Ico 1 256 := by
    simp only [decide_eq_true_eq, decode_eq_operandNotZero_iff, Finset.mem_Ico, Finset.mem_insert,
      Finset.mem_singleton]; omega
  have himms : Finset.Ico 1 256 ⊆ Finset.range 256 := fun n hn => Finset.mem_range.2 (Finset.mem_Ico.1 hn).2
  rw [countWords_of_fields (by decide) (by decide) himms hfields]
  simp

/-- Settles O3: the classes by the cases of `decode_cases`, their sizes by the fields, and the exception for every
illegal word. -/
theorem illegalWordsAreTheThreeClasses : Obligations.IllegalWordsAreTheThreeClasses := by
  refine ⟨fun w => ⟨decode_eq_reservedBits_iff w, decode_eq_reservedOpcode_iff w, decode_eq_operandNotZero_iff w⟩,
    countWords_reservedBits, countWords_reservedOpcode, countWords_operandNotZero, fun w r s hw => ?_⟩
  obtain ⟨x, hd⟩ := (legalWord_eq_false_iff w).1 hw
  exact ⟨_, acceptWord_error hd r s, rfl⟩

/-- The words that spell no command are those of the three classes of 30_encoding.md R67, each in one of them. -/
theorem countWords_not_legalWord_eq_classes :
    countWords (fun w => !legalWord w) =
      countWords (fun w => decide (decode w = .error .reservedBits))
        + countWords (fun w => decide (decode w = .error .reservedOpcode))
        + countWords (fun w => decide (decode w = .error .operandNotZero)) :=
  countWords_eq_add fun w => by
    rcases decode_cases w with ⟨hd, -⟩ | ⟨hd, -⟩ | ⟨hd, -⟩ | ⟨i, hd, -⟩ <;> simp [legalWord, hd]

theorem countWords_not_legalWord : countWords (fun w => !legalWord w) = 65021 := by
  rw [countWords_not_legalWord_eq_classes, countWords_reservedBits, countWords_reservedOpcode,
    countWords_operandNotZero]

theorem countWords_legalWord : countWords legalWord = 515 := by
  have h := countWords_add_not legalWord
  rw [countWords_not_legalWord] at h
  exact Nat.eq_sub_of_add_eq h

/-! ### The opcode map -/

theorem decode_eq_ok_iff {w : Word} {i : Instr} : decode w = .ok i ↔ encode i = w := decodeInvertsEncode w i

/-- The rows of the commands without an operand: their mask keeps every bit. -/
theorem decode_eq_ok_iff_fullMask {w v : Word} {i : Instr} (hi : encode i = v) :
    decode w = .ok i ↔ w &&& 0xFFFF#16 = v := by
  have hmask : w &&& 0xFFFF#16 = w := BitVec.and_allOnes
  rw [decode_eq_ok_iff, hi, hmask, eq_comm]

/-- The rows of the commands with an operand: their mask keeps the high byte, and the operand is the low byte. -/
theorem decode_eq_ok_iff_highMask {w v : Word} {i : Instr} {b : Byte} (hi : (encode i).toNat = v.toNat + b.toNat)
    (hv : v.toNat % 256 = 0) : decode w = .ok i ↔ w &&& 0xFF00#16 = v ∧ w.setWidth 8 = b := by
  have hb := b.isLt
  rw [decode_eq_ok_iff, ← BitVec.toNat_inj, ← BitVec.toNat_inj, ← BitVec.toNat_inj, hi, and_highMask_toNat,
    BitVec.toNat_setWidth]
  omega

theorem decode_eq_byte_iff (w : Word) (b : Byte) :
    decode w = .ok (.byte b) ↔ w &&& 0xFF00#16 = 0x2000#16 ∧ w.setWidth 8 = b :=
  decode_eq_ok_iff_highMask (packWord_toNat 0x2#4 b) rfl

theorem decode_eq_romrd_iff (w : Word) (i : Byte) :
    decode w = .ok (.romrd i) ↔ w &&& 0xFF00#16 = 0x4000#16 ∧ w.setWidth 8 = i :=
  decode_eq_ok_iff_highMask (packWord_toNat 0x4#4 i) rfl

/-- A word that meets a row's mask and match decodes to a command of that row. -/
theorem decode_of_meets_row {w : Word} {i : Instr} (h : w &&& rowMask i = rowMatch i) :
    ∃ j, decode w = .ok j ∧ rowMatch j = rowMatch i ∧ rowMask j = rowMask i := by
  cases i with
  | nop => exact ⟨.nop, (decode_eq_ok_iff_fullMask rfl).2 h, rfl, rfl⟩
  | start => exact ⟨.start, (decode_eq_ok_iff_fullMask rfl).2 h, rfl, rfl⟩
  | byte b => exact ⟨.byte (w.setWidth 8), (decode_eq_byte_iff w _).2 ⟨h, rfl⟩, rfl, rfl⟩
  | endKey => exact ⟨.endKey, (decode_eq_ok_iff_fullMask rfl).2 h, rfl, rfl⟩
  | romrd n => exact ⟨.romrd (w.setWidth 8), (decode_eq_romrd_iff w _).2 ⟨h, rfl⟩, rfl, rfl⟩

/-- Two rows that one word meets agree, because Decode gives that word one command. -/
theorem rows_eq_of_meet {w : Word} {i j : Instr} (hi : w &&& rowMask i = rowMatch i)
    (hj : w &&& rowMask j = rowMatch j) : rowMatch i = rowMatch j ∧ rowMask i = rowMask j := by
  obtain ⟨k, hk, hmatch, hmask⟩ := decode_of_meets_row hi
  obtain ⟨l, hl, hmatch', hmask'⟩ := decode_of_meets_row hj
  cases hk.symm.trans hl
  exact ⟨hmatch.symm.trans hmatch', hmask.symm.trans hmask'⟩

/-- Settles O2: the rows by the words of the commands (`decodeInvertsEncode`), the counts by the classes of R67. -/
theorem opcodeMapDecides : Obligations.OpcodeMapDecides :=
  ⟨fun w => ⟨decode_eq_ok_iff_fullMask rfl, decode_eq_ok_iff_fullMask rfl, decode_eq_byte_iff w,
      decode_eq_ok_iff_fullMask rfl, decode_eq_romrd_iff w⟩,
    fun _ _ _ => rows_eq_of_meet, countWords_legalWord, countWords_not_legalWord⟩

/-! ### Operands in the assembly language -/

/-- The word of a command whose operand is the number `n`. -/
theorem packWord_ofNat (op : BitVec 4) {n : ℕ} (hn : n ≤ 255) :
    packWord op (BitVec.ofNat 8 n) = BitVec.ofNat 16 (op.toNat * 4096 + n) := by
  have hop := op.isLt
  rw [packWord_eq_iff, BitVec.toNat_ofNat, BitVec.toNat_ofNat]
  omega

theorem assembleLine_of_wellFormed {l : SourceLine} (h : l.wellFormed = true) :
    assembleLine l = .ok (expandLine l) := if_pos h

theorem assembleLine_of_not_wellFormed {l : SourceLine} (h : ¬ l.wellFormed = true) :
    assembleLine l = .error .outOfRange := if_neg h

/-- Settles O56: both sides of the range check for every number, and the example of each operand form by running the
assembler. -/
theorem operandRangeIsAnAssemblyError : Obligations.OperandRangeIsAnAssemblyError := by
  refine ⟨fun n hn => ?_, fun n hn => ?_, by decide, by decide, by decide, by decide, by decide, by decide⟩
  · have hout : ¬ decide (n ≤ 255) = true := by simpa using hn
    exact ⟨assembleLine_of_not_wellFormed hout, assembleLine_of_not_wellFormed hout⟩
  · have hin : decide (n ≤ 255) = true := decide_eq_true hn
    rw [assembleLine_of_wellFormed (l := .byte n) hin, assembleLine_of_wellFormed (l := .romrd n) hin]
    simp only [expandLine, encode, packWord_ofNat _ hn]
    exact ⟨rfl, rfl⟩

end Sys2Proof.Machine
end

section
/-! PROOFS. The CRC engine of 40_crc_engine.md: the ROM, the byte update in its table form and in its bit-serial form,
and the laws of the checksum. -/

namespace Sys2Proof.Machine

/-! ### The halves of a word -/

theorem highByte_append_lowByte (c : Word) : highByte c ++ lowByte c = c := BitVec.extractLsb'_append_extractLsb'

@[simp] theorem lowByte_xor (c d : Word) : lowByte (c ^^^ d) = lowByte c ^^^ lowByte d := BitVec.extractLsb'_xor

@[simp] theorem highByte_xor (c d : Word) : highByte (c ^^^ d) = highByte c ^^^ highByte d := BitVec.extractLsb'_xor

@[simp] theorem lowByte_append (a b : Byte) : lowByte (a ++ b) = b := BitVec.extractLsb'_append_eq_right

@[simp] theorem highByte_append (a b : Byte) : highByte (a ++ b) = a := BitVec.extractLsb'_append_eq_left

theorem append_eq_xor (a b : Byte) : a ++ b = (a ++ 0x00#8) ^^^ (0x00#8 ++ b) := by
  rw [BitVec.xor_append, BitVec.xor_zero, BitVec.zero_xor]

/-! ### The ROM -/

theorem listedRom_eq_map_rom : listedRom = (List.range 256).map fun n => rom (BitVec.ofNat 8 n) := by
  decide +kernel

/-- Settles O31, by `listedRom_eq_map_rom`. -/
theorem romHoldsTheListedEntries : Obligations.RomHoldsTheListedEntries := by
  refine ⟨by rw [listedRom_eq_map_rom, List.length_map, List.length_range], fun i => ?_⟩
  rw [listedRom_eq_map_rom, List.getElem?_map, List.getElem?_range i.isLt]
  simp

theorem rom_xor (a b : Byte) : rom (a ^^^ b) = rom a ^^^ rom b := by
  rw [rom, romGen, append_zero_xor]
  exact crcShift8_xor _ _

theorem rom_zero : rom 0x00#8 = 0x0000#16 := by decide

theorem eq_zero_of_lowByte_rom (i : Byte) : lowByte (rom i) = 0x00#8 → i = 0x00#8 := by
  revert i; decide

/-- By linearity, two entries with one low byte differ by an entry whose low byte is zero. -/
theorem lowByte_rom_injective : Function.Injective fun i => lowByte (rom i) := by
  intro i j h
  have hz : lowByte (rom (i ^^^ j)) = 0x00#8 := by
    rw [rom_xor, lowByte_xor, BitVec.xor_eq_zero_iff]; exact h
  exact BitVec.xor_eq_zero_iff.1 (eq_zero_of_lowByte_rom _ hz)

/-- Eight shifts of a value below 256 never meet the polynomial. -/
theorem crcShift8_zero_append (b : Byte) : crcShift8 (0x00#8 ++ b) = b ++ 0x00#8 := by
  revert b; decide

/-! ### The byte update -/

/-- Eight shift steps are one table lookup: no bit of the low half reaches the top of the register on the way. -/
theorem crcShift8_eq (c : Word) : crcShift8 c = rom (highByte c) ^^^ (lowByte c ++ 0x00#8) := by
  calc crcShift8 c
      = crcShift8 ((highByte c ++ 0x00#8) ^^^ (0x00#8 ++ lowByte c)) := by
        rw [← append_eq_xor, highByte_append_lowByte]
    _ = crcShift8 (highByte c ++ 0x00#8) ^^^ crcShift8 (0x00#8 ++ lowByte c) := crcShift8_xor _ _
    _ = rom (highByte c) ^^^ (lowByte c ++ 0x00#8) := by rw [crcShift8_zero_append]; rfl

theorem crcUpd_zero (b : Byte) : crcUpd 0x0000#16 b = rom b := by
  have hhigh : highByte 0x0000#16 = 0x00#8 := by decide
  have hlow : lowByte 0x0000#16 ++ 0x00#8 = 0x0000#16 := by decide
  rw [crcUpd, hhigh, hlow, BitVec.zero_xor, BitVec.xor_zero]

theorem bitSerialUpd_eq_crcUpd : bitSerialUpd = crcUpd := by
  funext c b
  rw [bitSerialUpd, crcShift8_eq, highByte_xor, lowByte_xor, highByte_append, lowByte_append, BitVec.xor_zero, crcUpd]

/-- Settles O34: both folds run the same byte update. -/
theorem bitSerialFormAgrees : Obligations.BitSerialFormAgrees := fun s => by
  rw [bitSerialCrc, bitSerialUpd_eq_crcUpd, crc16, crcInit]

/-- The table index of the source's formula is the index of `crcUpd`. -/
theorem ofNat_shiftRight_xor_and (c : Word) (b : Byte) :
    BitVec.ofNat 8 (((c.toNat >>> 8) ^^^ b.toNat) &&& 0xFF) = highByte c ^^^ b := by
  have hb := b.isLt
  apply BitVec.eq_of_toNat_eq
  have hhigh := (highByte c).isLt
  have hshift : c.toNat >>> 8 = (highByte c).toNat := by rw [highByte_toNat, Nat.shiftRight_eq_div_pow]
  have hlt := Nat.xor_lt_two_pow hhigh hb
  rw [BitVec.toNat_ofNat, BitVec.toNat_xor, hshift, Nat.and_two_pow_sub_one_of_lt_two_pow (n := 8) hlt,
    Nat.mod_eq_of_lt hlt]

/-- Settles O32: the index is the ROM's operand, and the mask to 16 bits leaves the ROM entry as it is. -/
theorem byteUpdateIsTheTableFormula : Obligations.ByteUpdateIsTheTableFormula := by
  intro c b
  have hrom := (rom (highByte c ^^^ b)).isLt
  rw [ofNat_shiftRight_xor_and, crcUpd, BitVec.toNat_xor, lowByte_append_toNat, Nat.shiftLeft_eq]
  have h := Nat.xor_mod_two_pow (a := (rom (highByte c ^^^ b)).toNat) (b := c.toNat * 2 ^ 8) (n := 16)
  rw [Nat.mod_eq_of_lt hrom] at h
  exact h.symm

/-! ### The checksum -/

theorem crc16_append_singleton (s : List Byte) (b : Byte) : crc16 (s ++ [b]) = crcUpd (crc16 s) b :=
  List.foldl_concat ..

/-- Settles O33: the checksum is a left fold, and the check value is run. -/
theorem checksumFoldsTheUpdate : Obligations.ChecksumFoldsTheUpdate :=
  ⟨rfl, crc16_append_singleton, by decide +kernel⟩

theorem crc16_zero_cons (s : List Byte) : crc16 (0x00#8 :: s) = crc16 s := by
  have h : crcUpd crcInit 0x00#8 = crcInit := by rw [crcInit, crcUpd_zero, rom_zero]
  rw [crc16, List.foldl_cons, h, crc16]

theorem crcUpd_eq_crcUpd_zero (c : Word) (b : Byte) :
    crcUpd c b = crcUpd 0x0000#16 (highByte c ^^^ b) ^^^ (lowByte c ++ 0x00#8) := by
  rw [crcUpd_zero, crcUpd]

/-- The low half of the result gives the high half of the register back, and then the rest gives the low half. -/
theorem crcShift8_injective : Function.Injective crcShift8 := by
  intro c d h
  rw [crcShift8_eq, crcShift8_eq] at h
  have hhigh : highByte c = highByte d := by
    apply lowByte_rom_injective
    simpa using congrArg lowByte h
  rw [hhigh, BitVec.xor_right_inj] at h
  rw [← highByte_append_lowByte c, ← highByte_append_lowByte d, hhigh]
  congr 1
  simpa using congrArg highByte h

theorem crcShift8_surjective : Function.Surjective crcShift8 :=
  Finite.surjective_of_injective crcShift8_injective

/-- A two-byte key is one register value, shifted by its sixteen bits. -/
theorem crc16_pair (a b : Byte) : crc16 [a, b] = crcShift8 (crcShift8 (a ++ b)) := by
  calc crc16 [a, b]
      = crcShift8 (rom a ^^^ (b ++ 0x00#8)) := by
        rw [← crcUpd_zero, ← bitSerialUpd, bitSerialUpd_eq_crcUpd]; rfl
    _ = crcShift8 (crcShift8 (a ++ b)) := by
        rw [crcShift8_eq (a ++ b), highByte_append, lowByte_append]

/-- Settles O36: the two-byte keys by the bijection `crcShift8`, the rest by the linearity of the ROM. -/
theorem crcArithmeticLaws : Obligations.CrcArithmeticLaws := by
  refine ⟨crc16_zero_cons, rom_xor, crcUpd_eq_crcUpd_zero, fun v => ?_, fun a b c d h => ?_,
    fun _ _ h => lowByte_rom_injective h⟩
  · obtain ⟨u, rfl⟩ := crcShift8_surjective v
    obtain ⟨w, rfl⟩ := crcShift8_surjective u
    exact ⟨highByte w, lowByte w, by rw [crc16_pair, highByte_append_lowByte]⟩
  · rw [crc16_pair, crc16_pair] at h
    have hw := crcShift8_injective (crcShift8_injective h)
    exact ⟨by simpa using congrArg highByte hw,
      by simpa using congrArg lowByte hw⟩

/-! ### ROMRD -/

theorem encode_romrd (i : Byte) : encode (.romrd i) = 0x4000#16 ||| i.setWidth 16 := by
  revert i; decide

/-- Settles O20: the frame is `execRomrd` itself, and `RSV` not 0 is the first class of R67. -/
theorem romrdReadsTheEntry : Obligations.RomrdReadsTheEntry := by
  refine ⟨fun _ _ => rfl, encode_romrd, fun w hrsv => ?_, rom_zero, by decide, by decide⟩
  exact (legalWord_eq_false_iff w).2 ⟨_, (decode_eq_reservedBits_iff w).2 hrsv⟩

end Sys2Proof.Machine
end

section
/-! PROOFS. The checksum as a remainder over GF(2) (40_crc_engine.md R76): the residue class of the register through
the shift steps. -/

namespace Sys2Proof.Machine

open Polynomial

/-! ### Values as polynomials -/

theorem coeff_bitsPoly {n : Nat} (v : BitVec n) (k : Nat) :
    (bitsPoly v).coeff k = if v.getLsbD k then 1 else 0 := by
  have hterm (i : Nat) : (if v.getLsbD i then (X : (ZMod 2)[X]) ^ i else 0).coeff k
      = if k = i then if v.getLsbD k then 1 else 0 else 0 := by
    rcases eq_or_ne k i with rfl | hki
    · cases v.getLsbD k <;> simp
    · cases v.getLsbD i <;> simp [coeff_X_pow, hki]
  rw [bitsPoly, finsetSum_coeff, Finset.sum_congr rfl fun i _ => hterm i, Finset.sum_ite_eq]
  by_cases hk : k < n
  · rw [if_pos (Finset.mem_range.2 hk)]
  · rw [if_neg (by simpa using hk), BitVec.getLsbD_of_ge v k (by omega), if_neg Bool.false_ne_true]

theorem degree_bitsPoly_lt {n : Nat} (v : BitVec n) : (bitsPoly v).degree < n :=
  (degree_lt_iff_coeff_zero _ _).2 fun k hk => by
    rw [coeff_bitsPoly, BitVec.getLsbD_of_ge v k hk, if_neg Bool.false_ne_true]

/-- Exclusive-or is addition over GF(2). -/
theorem bitsPoly_xor {n : Nat} (v w : BitVec n) : bitsPoly (v ^^^ w) = bitsPoly v + bitsPoly w := by
  ext k
  rw [coeff_add, coeff_bitsPoly, coeff_bitsPoly, coeff_bitsPoly, BitVec.getLsbD_xor]
  cases v.getLsbD k <;> cases w.getLsbD k <;> decide

theorem bitsPoly_append_zero (b : Byte) : bitsPoly (b ++ 0x00#8) = bitsPoly b * X ^ 8 := by
  ext k
  rw [coeff_mul_X_pow', coeff_bitsPoly, BitVec.getLsbD_append]
  by_cases hk : 8 ≤ k
  · simp [hk, Nat.not_lt.2 hk, coeff_bitsPoly]
  · simp [hk, Nat.not_le.1 hk]

/-- A left shift multiplies by `x` and drops the coefficient of `x^16`. -/
theorem bitsPoly_shiftLeft_one (r : Word) :
    bitsPoly (r <<< 1) + (if r.msb then X ^ 16 else 0) = bitsPoly r * X := by
  ext k
  have htop : (if r.msb then (X : (ZMod 2)[X]) ^ 16 else 0).coeff k = if k = 16 ∧ r.msb then 1 else 0 := by
    cases r.msb <;> simp [coeff_X_pow]
  rw [coeff_add, coeff_bitsPoly, BitVec.getLsbD_shiftLeft, htop]
  cases k with
  | zero => simp
  | succ k =>
    rw [coeff_mul_X, coeff_bitsPoly]
    rcases Nat.lt_trichotomy k 15 with hk | rfl | hk
    · simp [hk.ne, Nat.succ_lt_succ hk]
    · simp [BitVec.msb_eq_getLsbD_last]
    · simp [hk.ne', BitVec.getLsbD_of_ge r k hk]

theorem bitsPoly_poly : bitsPoly poly = 1 + X ^ 5 + X ^ 12 := by
  simp [bitsPoly, poly, Finset.sum_range_succ]

theorem crcPoly_eq : crcPoly = X ^ 16 + bitsPoly poly := by
  rw [bitsPoly_poly, crcPoly]; ring

theorem monic_crcPoly : crcPoly.Monic := by
  rw [crcPoly_eq]
  exact monic_X_pow_add (degree_bitsPoly_lt poly)

theorem degree_crcPoly : crcPoly.degree = 16 := by
  have hlt : (bitsPoly poly).degree < ((X : (ZMod 2)[X]) ^ 16).degree := by
    rw [degree_X_pow]; exact degree_bitsPoly_lt poly
  rw [crcPoly_eq, degree_add_eq_left_of_degree_lt hlt, degree_X_pow]; rfl

/-! ### The shift step modulo `P(x)` -/

/-- A shift step takes `P(x)` off exactly where the shifted value reaches degree 16. -/
theorem bitsPoly_crcShift (r : Word) :
    bitsPoly (crcShift r) + (if r.msb then crcPoly else 0) = bitsPoly r * X := by
  rw [← bitsPoly_shiftLeft_one, crcShift]
  cases r.msb with
  | false => rfl
  | true =>
    simp only [if_true]
    rw [bitsPoly_xor, crcPoly_eq, add_assoc, add_left_comm _ (X ^ 16), CharTwo.add_self_eq_zero, add_zero]

/-- Modulo `P(x)`, a shift step multiplies by `x`. -/
theorem mk_bitsPoly_crcShift (r : Word) :
    AdjoinRoot.mk crcPoly (bitsPoly (crcShift r)) = AdjoinRoot.mk crcPoly (bitsPoly r * X) := by
  rw [← bitsPoly_crcShift, map_add]
  cases r.msb <;> simp [AdjoinRoot.mk_self]

theorem mk_bitsPoly_crcShift8 (r : Word) :
    AdjoinRoot.mk crcPoly (bitsPoly (crcShift8 r)) = AdjoinRoot.mk crcPoly (bitsPoly r * X ^ 8) := by
  simp only [crcShift8, mk_bitsPoly_crcShift, map_mul, map_pow]; ring

theorem messagePoly_append_singleton (s : List Byte) (b : Byte) :
    messagePoly (s ++ [b]) = messagePoly s * X ^ 8 + bitsPoly b :=
  List.foldl_concat ..

/-- The invariant of the byte loop: the register is congruent to the message so far, times `x^16`. -/
theorem mk_bitsPoly_crc16 (s : List Byte) :
    AdjoinRoot.mk crcPoly (bitsPoly (crc16 s)) = AdjoinRoot.mk crcPoly (messagePoly s * X ^ 16) := by
  induction s using List.reverseRecOn with
  | nil =>
    have hzero : bitsPoly (crc16 []) = 0 := by simp [bitsPoly, crc16, crcInit]
    rw [hzero, messagePoly, List.foldl_nil, zero_mul]
  | append_singleton s b ih =>
    rw [crc16_append_singleton, ← bitSerialUpd_eq_crcUpd, bitSerialUpd, mk_bitsPoly_crcShift8, bitsPoly_xor,
      bitsPoly_append_zero, messagePoly_append_singleton, map_mul, map_add, ih]
    simp only [map_mul, map_add, map_pow]
    ring

/-- Settles O35: the register is congruent to the shifted message, and its degree is below that of `P(x)`. -/
theorem checksumIsThePolynomialRemainder : Obligations.ChecksumIsThePolynomialRemainder := by
  intro s
  have hself : bitsPoly (crc16 s) %ₘ crcPoly = bitsPoly (crc16 s) :=
    (modByMonic_eq_self_iff monic_crcPoly).2 (by
      rw [degree_crcPoly]; exact degree_bitsPoly_lt _)
  rw [← hself]
  exact modByMonic_eq_of_dvd_sub monic_crcPoly (AdjoinRoot.mk_eq_mk.1 (mk_bitsPoly_crc16 s))

end Sys2Proof.Machine
end

section
/-! PROOFS. The command BYTE of 41_hash_tag_extractor.md as equations, and the extractor's table. -/

namespace Sys2Proof.Machine

/-! ### What BYTE writes -/

/-- The extractor's transition as one equation for the whole state (41_hash_tag_extractor.md R85). -/
theorem scanByte_eq (b : Byte) (s : State) :
    scanByte b s = { s with
      crcTag := if s.tState = .opened ∧ b ≠ closeBrace then crcUpd s.crcTag b else s.crcTag
      tState :=
        if s.tState = .scan ∧ b = openBrace then .opened
        else if s.tState = .opened ∧ b = closeBrace ∧ s.tagLen = 0 then .noTag
        else if s.tState = .opened ∧ b = closeBrace ∧ s.tagLen ≠ 0 then .tag
        else s.tState
      tagOpen := if s.tState = .scan ∧ b = openBrace then s.keyLen else s.tagOpen
      tagLen := if s.tState = .opened ∧ b ≠ closeBrace then sat s.lenW (s.tagLen + 1) else s.tagLen } := by
  obtain ⟨_, _, ts, _, _, tl, _⟩ := s
  cases ts
  case scan => by_cases hb : b = openBrace <;> simp [scanByte, hb]
  case opened =>
    by_cases hb : b = closeBrace
    · by_cases hl : tl = 0 <;> simp [scanByte, hb, hl]
    · simp [scanByte, hb]
  case tag => simp [scanByte]
  case noTag => simp [scanByte]

theorem scanByte_tState (b : Byte) (s : State) :
    (scanByte b s).tState =
      if s.tState = .scan ∧ b = openBrace then .opened
      else if s.tState = .opened ∧ b = closeBrace ∧ s.tagLen = 0 then .noTag
      else if s.tState = .opened ∧ b = closeBrace ∧ s.tagLen ≠ 0 then .tag
      else s.tState := by
  rw [scanByte_eq]

theorem scanByte_crcTag (b : Byte) (s : State) :
    (scanByte b s).crcTag = if s.tState = .opened ∧ b ≠ closeBrace then crcUpd s.crcTag b else s.crcTag := by
  rw [scanByte_eq]

theorem scanByte_tagOpen (b : Byte) (s : State) :
    (scanByte b s).tagOpen = if s.tState = .scan ∧ b = openBrace then s.keyLen else s.tagOpen := by
  rw [scanByte_eq]

theorem scanByte_tagLen (b : Byte) (s : State) :
    (scanByte b s).tagLen =
      if s.tState = .opened ∧ b ≠ closeBrace then sat s.lenW (s.tagLen + 1) else s.tagLen := by
  rw [scanByte_eq]

theorem lenSatAfterByte_eq (s : State) :
    lenSatAfterByte s = (s.lenSat || decide (s.keyLen = satMax s.lenW)) := by
  rw [Bool.eq_iff_iff, lenSatAfterByte_iff, Bool.or_eq_true, decide_eq_true_iff]

theorem encode_byte (b : Byte) : encode (.byte b) = 0x2000#16 ||| b.setWidth 16 := by
  revert b; decide

/-- The worked example of 41_hash_tag_extractor.md R86: an open brace as the first byte of a key. -/
theorem exec_byte_open_of_clear {s u : State} (hw : 1 ≤ s.lenW)
    (h : exec (.byte 0x7B#8) (clearAccumulators s) = .next u) :
    u.tState = .opened ∧ u.tagOpen = 0 ∧ u.keyLen = 1 ∧ u.crcKey = 0xCFFC#16 ∧ u.crcTag = 0x0000#16
      ∧ u.done = false := by
  have hcrc : crcUpd 0x0000#16 0x7B#8 = 0xCFFC#16 := by decide +kernel
  cases h
  exact ⟨rfl, rfl, sat_of_le (satMax_pos hw), hcrc, rfl, rfl⟩

/-- Settles O15: the extractor's part by `scanByte_eq`, the rest of the state from the meaning of BYTE. -/
theorem byteAppendsToTheKey : Obligations.ByteAppendsToTheKey := by
  refine ⟨fun s b => ?_, encode_byte, by rw [crcUpd_zero, rom_zero], fun s t u ht hu hw => ?_⟩
  · rw [exec_byte, scanByte_eq, lenSatAfterByte_eq]; rfl
  · cases ht; exact exec_byte_open_of_clear hw hu

/-! ### The transition table, command by command -/

/-- What a command does to the accumulators: START clears them, BYTE appends, no other command writes them. -/
theorem exec_accumulators_cases {i : Instr} {s t : State} (h : exec i s = .next t) :
    (i = .start ∧ t = clearAccumulators s) ∨ (∃ b, i = .byte b ∧ exec (.byte b) s = .next t)
      ∨ t.accumulators = s.accumulators := by
  cases i with
  | start => cases h; exact .inl ⟨rfl, rfl⟩
  | byte b => exact .inr (.inl ⟨b, rfl, h⟩)
  | nop | endKey | romrd n => exact .inr (.inr (exec_accumulators (by simp) (by simp) h))

/-- BYTE writes the extractor's registers as `scanByte` does. -/
theorem exec_byte_extractor {s t : State} {b : Byte} (h : exec (.byte b) s = .next t) :
    t.tState = (scanByte b s).tState ∧ t.crcTag = (scanByte b s).crcTag ∧ t.tagOpen = (scanByte b s).tagOpen
      ∧ t.tagLen = (scanByte b s).tagLen := by
  cases h; exact ⟨rfl, rfl, rfl, rfl⟩

/-- A byte leaves the extractor in SCAN only if it was there, and then writes none of its registers. -/
theorem scanByte_eq_self_of_scan {b : Byte} {s : State} (h : (scanByte b s).tState = .scan) : scanByte b s = s := by
  obtain ⟨hs, hb⟩ : s.tState = .scan ∧ b ≠ openBrace := by
    rw [scanByte_tState] at h
    split_ifs at h with ho
    exact ⟨h, fun hb => ho ⟨h, hb⟩⟩
  simp [scanByte, hs, hb]

theorem scanByte_of_closed {s : State} (h : s.tState = .tag ∨ s.tState = .noTag) (b : Byte) : scanByte b s = s := by
  rcases h with ht | ht <;> simp [scanByte, ht]

/-- Settles O16: the rows by the equations of the four registers, the other two clauses by what each command
does to the accumulators. -/
theorem byteFollowsTheScanTable : Obligations.ByteFollowsTheScanTable := by
  refine ⟨fun s t b h => ?_, fun i s t hi h hs => ?_, fun i s t h hs ht => ?_⟩
  · obtain ⟨hts, hcrc, hopen, hlen⟩ := exec_byte_extractor h
    rw [hts, hcrc, hopen, hlen, scanByte_tState, scanByte_crcTag, scanByte_tagOpen, scanByte_tagLen]
    simp only [openBrace, closeBrace]
    refine ⟨fun hs hb => by simp [hs, hb], fun hs hb => by simp [hs, hb], fun hs hb hl => by simp [hs, hb, hl],
      fun hs hb hl => by simp [hs, hb, hl], fun hs hb => by simp [hs, hb], fun hs => ?_⟩
    rcases hs with hs | hs <;> simp [hs]
  · rcases exec_accumulators_cases h with ⟨rfl, -⟩ | ⟨b, rfl, hb⟩ | heq
    · exact absurd rfl hi
    · obtain ⟨hts, -⟩ := exec_byte_extractor hb
      rw [hts, scanByte_of_closed hs]
    · obtain ⟨-, -, hts, -⟩ := accumulators_eq_iff.1 heq
      exact hts
  · rcases exec_accumulators_cases h with ⟨rfl, rfl⟩ | ⟨b, rfl, hb⟩ | heq
    · exact ⟨rfl, rfl, rfl⟩
    · obtain ⟨hts, hcrc, hopen, hlen⟩ := exec_byte_extractor hb
      rw [hts] at ht
      have heq := scanByte_eq_self_of_scan ht
      rw [heq] at ht hcrc hopen hlen
      rw [hcrc, hopen, hlen]
      exact hs ht
    · obtain ⟨-, hcrc, hts, -, hopen, hlen, -⟩ := accumulators_eq_iff.1 heq
      rw [hcrc, hopen, hlen]
      exact hs (hts ▸ ht)

end Sys2Proof.Machine
end

section
/-! PROOFS. The registers and the key delivered so far: every edge keeps them together (41_hash_tag_extractor.md R88),
and what that says of the saturating counters (R87). -/

namespace Sys2Proof.Machine

/-! ### Saturation -/

theorem sat_eq_zero_iff {n v : Nat} (h : 1 ≤ n) : sat n v = 0 ↔ v = 0 := by
  have := satMax_pos h
  unfold sat; omega

theorem sat_succ_of_eq_sat {n v c : Nat} (h : c = sat n v) : sat n (c + 1) = sat n (v + 1) := by
  rw [h, sat_succ_sat]

theorem sat_succ_eq_ite {n v : Nat} (h : v ≤ satMax n) :
    sat n (v + 1) = if v = satMax n then satMax n else v + 1 := by
  split_ifs with hv
  · exact sat_of_ge (by omega)
  · exact sat_of_le (by omega)

theorem sat_mono {n v w : Nat} (h : v ≤ w) : sat n v ≤ sat n w := min_le_min_right _ h

/-! ### The key's reference functions -/

/-- What is known of the braces of a key, by its scan state (41_hash_tag_extractor.md R84). -/
theorem scanStateOf_cases (k : List Byte) :
    (scanStateOf k = .scan ∧ firstOpen k = none)
      ∨ (∃ i, scanStateOf k = .opened ∧ firstOpen k = some i ∧ closeAfter k i = none)
      ∨ (∃ i d, (scanStateOf k = .tag ∨ scanStateOf k = .noTag) ∧ firstOpen k = some i
          ∧ closeAfter k i = some d) := by
  unfold scanStateOf
  cases ho : firstOpen k with
  | none => simp
  | some i =>
    cases hc : closeAfter k i with
    | none => simp [hc]
    | some d => cases d <;> simp [hc]

theorem firstOpen_of_scan {k : List Byte} (h : scanStateOf k = .scan) : firstOpen k = none := by
  rcases scanStateOf_cases k with ⟨-, ho⟩ | ⟨i, hk, -⟩ | ⟨i, d, hk | hk, -⟩
  · exact ho
  all_goals simp [hk] at h

theorem closeAfter_of_opened {k : List Byte} (h : scanStateOf k = .opened) :
    ∃ i, firstOpen k = some i ∧ closeAfter k i = none := by
  rcases scanStateOf_cases k with ⟨hk, -⟩ | ⟨i, -, ho, hc⟩ | ⟨i, d, hk | hk, -⟩
  · simp [hk] at h
  · exact ⟨i, ho, hc⟩
  all_goals simp [hk] at h

theorem closeAfter_of_closed {k : List Byte} (h : scanStateOf k = .tag ∨ scanStateOf k = .noTag) :
    ∃ i d, firstOpen k = some i ∧ closeAfter k i = some d := by
  rcases scanStateOf_cases k with ⟨hk, -⟩ | ⟨i, hk, -⟩ | ⟨i, d, -, ho, hc⟩
  · simp [hk] at h
  · simp [hk] at h
  · exact ⟨i, d, ho, hc⟩

theorem candidateTag_of_scan {k : List Byte} (ho : firstOpen k = none) : candidateTag k = [] := by
  simp [candidateTag, ho]

theorem length_candidateTag_le (k : List Byte) : (candidateTag k).length ≤ k.length := by
  unfold candidateTag
  split
  · simp
  · exact ((List.takeWhile_sublist _).trans (List.drop_sublist _ _)).length_le

/-- The position TAG_OPEN counts: the index of the first open brace, or 0 while there is none. -/
def openIndex (k : List Byte) : Nat := (firstOpen k).getD 0

theorem openIndex_of_scan {k : List Byte} (ho : firstOpen k = none) : openIndex k = 0 := by simp [openIndex, ho]

theorem openIndex_of_open {k : List Byte} {i : Nat} (ho : firstOpen k = some i) : openIndex k = i := by
  simp [openIndex, ho]

theorem openIndex_snoc {k : List Byte} {i : Nat} (ho : firstOpen k = some i) (b : Byte) :
    openIndex (k ++ [b]) = openIndex k := by
  rw [openIndex_of_open ho, openIndex_of_open (firstOpen_snoc_some ho b)]

theorem openIndex_le_length (k : List Byte) : openIndex k ≤ k.length := by
  cases ho : firstOpen k with
  | none => rw [openIndex_of_scan ho]; exact Nat.zero_le _
  | some i => rw [openIndex_of_open ho]; exact (firstOpen_lt ho).le

/-! ### The two halves of `Accumulates` -/

/-- The extractor's registers hold what the key says: its scan state and its candidate tag. -/
def State.ScanHolds (s : State) (k : List Byte) : Prop :=
  s.tState = scanStateOf k ∧ s.crcTag = crc16 (candidateTag k) ∧ s.tagLen = sat s.lenW (candidateTag k).length
    ∧ s.tagOpen = sat s.lenW (openIndex k)

/-- The whole-key registers hold the checksum and the length of the key. -/
def State.KeyHolds (s : State) (k : List Byte) : Prop :=
  s.crcKey = crc16 k ∧ s.keyLen = sat s.lenW k.length ∧ (s.lenSat = true ↔ satMax s.lenW < k.length)

theorem accumulates_iff {s : State} {k : List Byte} (hw : 1 ≤ s.lenW) :
    s.Accumulates k ↔ s.KeyHolds k ∧ s.ScanHolds k := by
  constructor
  · rintro ⟨hcrc, hts, htag, -, htagLen, hlen, hsat, hopen, hnone⟩
    refine ⟨⟨hcrc, hlen, hsat⟩, hts, htag, htagLen, ?_⟩
    cases ho : firstOpen k with
    | none => rw [openIndex_of_scan ho, hnone ho]; exact (sat_of_le (Nat.zero_le _)).symm
    | some i => rw [openIndex_of_open ho]; exact hopen i ho
  · rintro ⟨⟨hcrc, hlen, hsat⟩, hts, htag, htagLen, hopen⟩
    refine ⟨hcrc, hts, htag, ?_, htagLen, hlen, hsat, fun i ho => ?_, fun ho => ?_⟩
    · rw [htagLen, sat_eq_zero_iff hw, List.length_eq_zero_iff]
    · rw [openIndex_of_open ho] at hopen; exact hopen
    · rw [hopen, openIndex_of_scan ho]; exact sat_of_le (Nat.zero_le _)

/-! ### One byte more -/

/-- A byte that adds nothing to the candidate tag moves TSTATE at most. -/
theorem State.ScanHolds.setTState {s : State} {k k' : List Byte} {ts : TState} (h : s.ScanHolds k)
    (hts : ts = scanStateOf k') (htag : candidateTag k' = candidateTag k) (hopen : openIndex k' = openIndex k) :
    ({ s with tState := ts } : State).ScanHolds k' := by
  obtain ⟨-, hcrc, hlen, hind⟩ := h
  exact ⟨hts, by rw [htag]; exact hcrc, by rw [htag]; exact hlen, by rw [hopen]; exact hind⟩

/-- The extractor's transition follows the key by one byte, row by row; the row of an open brace stores KEY_LEN. -/
theorem scanByte_scanHolds {s : State} {k : List Byte} (hw : 1 ≤ s.lenW) (hlen : s.keyLen = sat s.lenW k.length)
    (h : s.ScanHolds k) (b : Byte) : (scanByte b s).ScanHolds (k ++ [b]) := by
  have ⟨hts, hcrc, htagLen, hopen⟩ := h
  have hempty : s.tagLen = 0 ↔ candidateTag k = [] := by
    rw [htagLen, sat_eq_zero_iff hw, List.length_eq_zero_iff]
  have hclosed (hk : s.tState = .tag ∨ s.tState = .noTag) : s.ScanHolds (k ++ [b]) := by
    obtain ⟨i, d, ho, hc⟩ := closeAfter_of_closed (hts ▸ hk)
    obtain ⟨htag', hk'⟩ := snoc_closed ho hc b
    exact h.setTState (hts.trans hk'.symm) htag' (openIndex_snoc ho b)
  rcases scanByte_cases b s with ⟨ht, hb, heq⟩ | ⟨ht, hb, heq⟩ | ⟨ht, hb, hl, heq⟩ | ⟨ht, hb, hl, heq⟩ |
    ⟨ht, hb, heq⟩ | ⟨ht, heq⟩ | ⟨ht, heq⟩ <;> rw [heq]
  · have ho := firstOpen_of_scan (hts ▸ ht)
    obtain ⟨ho', hk', htag'⟩ := snoc_scan_open ho hb
    have hnil := htag'.trans (candidateTag_of_scan ho).symm
    exact ⟨hk'.symm, by rw [hnil]; exact hcrc, by rw [hnil]; exact htagLen,
      by rw [openIndex_of_open ho']; exact hlen⟩
  · have ho := firstOpen_of_scan (hts ▸ ht)
    obtain ⟨ho', hk', htag'⟩ := snoc_scan_other ho hb
    exact h.setTState (ht.trans hk'.symm) (htag'.trans (candidateTag_of_scan ho).symm)
      ((openIndex_of_scan ho').trans (openIndex_of_scan ho).symm)
  · obtain ⟨i, ho, hc⟩ := closeAfter_of_opened (hts ▸ ht)
    obtain ⟨htag', hk'⟩ := snoc_opened_close ho hc hb
    exact h.setTState (by rw [hk', if_pos (hempty.1 hl)]) htag' (openIndex_snoc ho b)
  · obtain ⟨i, ho, hc⟩ := closeAfter_of_opened (hts ▸ ht)
    obtain ⟨htag', hk'⟩ := snoc_opened_close ho hc hb
    exact h.setTState (by rw [hk', if_neg (mt hempty.2 hl)]) htag' (openIndex_snoc ho b)
  · obtain ⟨i, ho, hc⟩ := closeAfter_of_opened (hts ▸ ht)
    obtain ⟨htag', hk'⟩ := snoc_opened_other ho hc hb
    refine ⟨ht.trans hk'.symm, ?_, ?_, by rw [openIndex_snoc ho b]; exact hopen⟩
    · rw [htag', crc16_append_singleton, ← hcrc]
    · rw [htag', List.length_append]; exact sat_succ_of_eq_sat htagLen
  · exact hclosed (.inl ht)
  · exact hclosed (.inr ht)

/-- CRC_KEY, KEY_LEN and LEN_SAT follow the key by one byte (41_hash_tag_extractor.md R86, R87). -/
theorem exec_byte_keyHolds {s t : State} {k : List Byte} {b : Byte} (h : s.KeyHolds k)
    (hb : exec (.byte b) s = .next t) : t.KeyHolds (k ++ [b]) := by
  obtain ⟨hcrc, hlen, hsat⟩ := h
  have hsat' := exec_byte_lenSat hb
  cases hb
  simp only [State.KeyHolds, scanByte_lenW, crc16_append_singleton, List.length_append, List.length_singleton]
  refine ⟨by rw [← hcrc]; rfl, sat_succ_of_eq_sat hlen, hsat'.trans ?_⟩
  rw [hsat, hlen, sat]
  omega

/-! ### Every edge -/

theorem exec_byte_accumulates {s t : State} {k : List Byte} {b : Byte} (hw : 1 ≤ s.lenW) (ha : s.Accumulates k)
    (h : exec (.byte b) s = .next t) : t.Accumulates (k ++ [b]) := by
  obtain ⟨hkey, hscan⟩ := (accumulates_iff hw).1 ha
  have ⟨_, hlen, _⟩ := hkey
  have hkey' := exec_byte_keyHolds hkey h
  have hscan' := scanByte_scanHolds hw hlen hscan b
  cases h
  exact (accumulates_iff (by simpa using hw)).2 ⟨hkey', hscan'⟩

/-- `Accumulates` reads the accumulators and LEN_W alone. -/
theorem accumulates_of_accumulators_eq {s t : State} {k : List Byte} (ha : t.accumulators = s.accumulators)
    (hw : t.lenW = s.lenW) (h : s.Accumulates k) : t.Accumulates k := by
  obtain ⟨hck, hct, hts, hkl, hto, htl, hls⟩ := accumulators_eq_iff.1 ha
  rwa [State.Accumulates, hck, hct, hts, hkl, hto, htl, hls, hw]

/-- Cleared accumulators, in a build of any width, hold the empty key. -/
theorem accumulates_nil {s : State} (h : s.accumulators = (State.resetBuild s.lenW).accumulators) :
    s.Accumulates [] := by
  refine accumulates_of_accumulators_eq h rfl
    ⟨rfl, rfl, rfl, ⟨fun _ => rfl, fun _ => rfl⟩, rfl, rfl, ?_, ?_, fun _ => rfl⟩
  · simp [State.resetBuild]
  · intro i hi; cases hi

theorem clearAccumulators_accumulates (s : State) : (clearAccumulators s).Accumulates [] := accumulates_nil rfl

theorem resetRegisters_accumulates (s : State) : (resetRegisters s).Accumulates [] := accumulates_nil rfl

/-- No command changes the build's width. -/
theorem exec_lenW {i : Instr} {s t : State} (h : exec i s = .next t) : t.lenW = s.lenW := by
  rcases exec_cases h with ⟨-, rfl⟩ | ⟨-, rfl⟩ | ⟨b, -, rfl⟩ | ⟨-, ⟨-, rfl⟩ | ⟨-, -, rfl⟩ | ⟨-, -, rfl⟩⟩ | ⟨n, -, rfl⟩
  case inr.inr.inl => exact scanByte_lenW s b
  all_goals rfl

theorem step_lenW {s t : State} (h : step s = .next t) : t.lenW = s.lenW := by
  rcases step_cases h with ⟨-, rfl⟩ | ⟨e, rest, hs, -⟩
  · rfl
  rcases step_cons_cases hs h with ⟨-, rfl⟩ | ⟨-, -, i, -, hi⟩ | ⟨-, -, x, -, rfl⟩ | ⟨-, -, rfl⟩
  · rfl
  · exact (exec_lenW hi :)
  · rfl
  · rfl

theorem exec_accumulates {i : Instr} {s t : State} {e : Edge} {k : List Byte} (hacc : e.accepts = true)
    (hd : decode e.cmd = .ok i) (h : exec i s = .next t) (hw : 1 ≤ s.lenW) (ha : s.Accumulates k) :
    t.Accumulates (keyAfterEdge e k) := by
  rw [keyAfterEdge_of_accepts hacc hd]
  cases i with
  | nop | endKey | romrd n =>
    exact accumulates_of_accumulators_eq (exec_accumulators (by simp) (by simp) h) (exec_lenW h) ha
  | start => cases h; exact clearAccumulators_accumulates s
  | byte b => exact exec_byte_accumulates hw ha h

theorem step_accumulates {s t : State} {k : List Byte} (hw : 1 ≤ s.lenW) (ha : s.Accumulates k)
    (h : step s = .next t) : t.Accumulates (keyAfterStep s k) := by
  rcases step_cases h with ⟨he, rfl⟩ | ⟨e, rest, hs, -⟩
  · simpa [keyAfterStep, he] using ha
  rw [keyAfterStep_cons hs]
  rcases step_cons_cases hs h with ⟨hr, rfl⟩ | ⟨-, hacc, i, hd, hi⟩ | ⟨hr, -, x, hd, rfl⟩ | ⟨hr, hacc, rfl⟩
  · rw [keyAfterEdge, if_pos hr]; exact resetRegisters_accumulates _
  · exact exec_accumulates hacc hd hi hw ha
  · rw [keyAfterEdge_of_no_command hr (.inr ⟨x, hd⟩)]; exact ha
  · rw [keyAfterEdge_of_no_command hr (.inl hacc)]; exact ha

/-- Settles O45: the width stays, the accumulators follow the key (`step_accumulates`), and while DONE is 1 the results
describe it (`step_describes`). -/
theorem stepTracksTheKey : Obligations.StepTracksTheKey := by
  refine ⟨fun k s t htr h => ?_, fun n hn => ?_⟩
  · have ⟨hw, ha, _⟩ := htr
    exact ⟨(step_lenW h).symm ▸ hw, step_accumulates hw ha h, step_describes htr h⟩
  · exact ⟨hn, accumulates_nil rfl, fun hdone => by cases hdone⟩

/-! ### The saturating counters -/

/-- BYTE on registers that fit their width (41_hash_tag_extractor.md R87). -/
theorem exec_byte_counters {s t : State} {b : Byte} (hw : s.WidthsOk) (h : exec (.byte b) s = .next t) :
    t.keyLen = (if s.keyLen = satMax s.lenW then satMax s.lenW else s.keyLen + 1)
      ∧ t.tagLen
          = (if s.tState = .opened ∧ b ≠ closeBrace then
              (if s.tagLen = satMax s.lenW then satMax s.lenW else s.tagLen + 1)
            else s.tagLen)
      ∧ t.tagOpen ≤ satMax s.lenW := by
  obtain ⟨-, hkey, hopen, htag, -⟩ := hw
  obtain ⟨-, -, hopen', htag'⟩ := exec_byte_extractor h
  rw [hopen', htag', scanByte_tagOpen, scanByte_tagLen, ← sat_succ_eq_ite htag, ← sat_succ_eq_ite hkey]
  refine ⟨by cases h; rfl, rfl, ?_⟩
  split_ifs
  · exact hkey
  · exact hopen

theorem exec_counters_mono {i : Instr} {s t : State} (hi : i ≠ .start) (hw : s.WidthsOk)
    (h : exec i s = .next t) : s.keyLen ≤ t.keyLen ∧ s.tagLen ≤ t.tagLen := by
  rcases exec_accumulators_cases h with ⟨rfl, -⟩ | ⟨b, rfl, hb⟩ | heq
  · exact absurd rfl hi
  · obtain ⟨hkey, htag, -⟩ := exec_byte_counters hw hb
    obtain ⟨-, hkey', -, htag', -⟩ := hw
    rw [hkey, htag]
    split_ifs <;> omega
  · obtain ⟨-, -, -, hkey, -, htag, -⟩ := accumulators_eq_iff.1 heq
    exact ⟨hkey.ge, htag.ge⟩

/-- The tracked counters are saturated lengths and positions inside the key. -/
theorem tracks_counters {s : State} {k : List Byte} (h : s.Tracks k) :
    s.tagLen ≤ s.keyLen ∧ s.tagOpen ≤ s.keyLen ∧ (s.lenSat = true ↔ satMax s.lenW < k.length)
      ∧ (s.lenSat = false →
          s.keyLen = k.length ∧ s.tagLen = (candidateTag k).length ∧ ∀ i, firstOpen k = some i → s.tagOpen = i) := by
  obtain ⟨hw, ha, -⟩ := h
  obtain ⟨⟨-, hlen, hsat⟩, -, -, htagLen, hopen⟩ := (accumulates_iff hw).1 ha
  have htag := length_candidateTag_le k
  have hidx := openIndex_le_length k
  rw [hlen, htagLen, hopen]
  refine ⟨sat_mono htag, sat_mono hidx, hsat, fun hls => ?_⟩
  have hfit : k.length ≤ satMax s.lenW := by simpa [hls] using hsat
  refine ⟨sat_of_le hfit, sat_of_le (htag.trans hfit), fun i ho => ?_⟩
  rw [sat_of_le (hidx.trans hfit), openIndex_of_open ho]

/-- Settles O47: BYTE on registers that fit, the other commands by their frame, and a tracked key by its lengths. -/
theorem countersSaturate : Obligations.CountersSaturate := by
  refine ⟨fun s t b hw h => ?_, fun i s t hi hw h => exec_counters_mono hi hw h, fun s k h => tracks_counters h⟩
  obtain ⟨hkey, htag, hopen⟩ := exec_byte_counters hw h
  exact ⟨hkey, htag, exec_byte_lenSat h, hopen⟩

end Sys2Proof.Machine
end

section
/-! PROOFS. The effective key of 41_hash_tag_extractor.md: by least indices, by the first brace pair, and its laws. -/

namespace Sys2Proof.Machine

/-! ### The braces by least indices -/

theorem findIdx?_beq_eq_none_iff {l : List Byte} {a : Byte} :
    l.findIdx? (fun b => b == a) = none ↔ ∀ i : Nat, l[i]? ≠ some a := by
  rw [← List.idxOf?, List.idxOf?_eq_none_iff, List.mem_iff_getElem?, not_exists]

theorem findIdx?_beq_eq_some {l : List Byte} {a : Byte} {i : Nat} (h : l[i]? = some a)
    (hmin : ∀ j : Nat, j < i → l[j]? ≠ some a) : l.findIdx? (fun b => b == a) = some i := by
  obtain ⟨hi, hia⟩ := List.getElem?_eq_some_iff.1 h
  rw [← List.idxOf?, List.idxOf?_eq_some_iff]
  exact ⟨hi, hia, fun j hj hja => hmin j hj (List.getElem?_eq_some_iff.2 ⟨hj.trans hi, hja⟩)⟩

theorem findIdx?_beq_append_cons {l : List Byte} {a : Byte} (h : a ∉ l) (r : List Byte) :
    (l ++ a :: r).findIdx? (fun b => b == a) = some l.length := by
  refine findIdx?_beq_eq_some (by simp) fun j hj hja => h ?_
  rw [List.getElem?_append_left hj] at hja
  exact List.mem_of_getElem? hja

theorem closeAfter_eq_none {k : List Byte} {s : Nat} (h : ∀ j : Nat, s < j → k[j]? ≠ some closeBrace) :
    closeAfter k s = none := by
  refine findIdx?_beq_eq_none_iff.2 fun i => ?_
  rw [List.getElem?_drop]
  exact h _ (by omega)

theorem closeAfter_eq_some {k : List Byte} {s e : Nat} (hse : s < e) (he : k[e]? = some closeBrace)
    (hmin : ∀ j : Nat, s < j → j < e → k[j]? ≠ some closeBrace) : closeAfter k s = some (e - s - 1) := by
  refine findIdx?_beq_eq_some ?_ fun j hj => ?_
  · rw [List.getElem?_drop, show s + 1 + (e - s - 1) = e by omega]; exact he
  · rw [List.getElem?_drop]; exact hmin _ (by omega) (by omega)

/-! ### The effective key by the braces -/

theorem effectiveKey_of_no_open {k : List Byte} (ho : firstOpen k = none) :
    effectiveKey k = { start := 0, len := k.length, tagged := false } :=
  effectiveKey_of_not_tag (by simp [scanStateOf, ho])

theorem effectiveKey_of_no_close {k : List Byte} {s : Nat} (ho : firstOpen k = some s) (hc : closeAfter k s = none) :
    effectiveKey k = { start := 0, len := k.length, tagged := false } :=
  effectiveKey_of_not_tag (by simp [scanStateOf, ho, hc])

theorem effectiveKey_of_empty_pair {k : List Byte} {s : Nat} (ho : firstOpen k = some s)
    (hc : closeAfter k s = some 0) : effectiveKey k = { start := 0, len := k.length, tagged := false } :=
  effectiveKey_of_not_tag (by simp [scanStateOf, ho, hc])

theorem effectiveKey_of_pair {k : List Byte} {s d : Nat} (ho : firstOpen k = some s) (hc : closeAfter k s = some d)
    (hd : d ≠ 0) : effectiveKey k = { start := s + 1, len := d, tagged := true } := by
  obtain ⟨d, rfl⟩ := Nat.exists_eq_succ_of_ne_zero hd
  simp [effectiveKey, ho, hc]

theorem effectiveBytes_eq (k : List Byte) :
    effectiveBytes k = (k.drop (effectiveKey k).start).take (effectiveKey k).len := by
  rw [effectiveBytes, slice, Nat.add_sub_cancel_left]

/-- Settles O37: the least indices are what `firstOpen` and `closeAfter` find. -/
theorem effectiveKeyByLeastBraces : Obligations.EffectiveKeyByLeastBraces := by
  intro k
  refine ⟨fun h => effectiveKey_of_no_open (findIdx?_beq_eq_none_iff.2 h), fun s hs hmin => ?_, effectiveBytes_eq k⟩
  have ho : firstOpen k = some s := findIdx?_beq_eq_some hs hmin
  refine ⟨fun h => effectiveKey_of_no_close ho (closeAfter_eq_none h), fun e hse he hmin' => ?_⟩
  have hc : closeAfter k s = some (e - s - 1) := closeAfter_eq_some hse he hmin'
  refine ⟨fun hadj => effectiveKey_of_empty_pair ho ?_, fun hgap => effectiveKey_of_pair ho hc (by omega)⟩
  rw [hc, show e - s - 1 = 0 by omega]

/-! ### The first pair of a key written out -/

section
variable {pre tag : List Byte}

theorem firstOpen_append_open (hpre : openBrace ∉ pre) (rest : List Byte) :
    firstOpen (pre ++ openBrace :: rest) = some pre.length :=
  findIdx?_beq_append_cons hpre rest

theorem drop_append_open (rest : List Byte) : (pre ++ openBrace :: rest).drop (pre.length + 1) = rest := by
  simp

theorem closeAfter_append_close (htag : closeBrace ∉ tag) (post : List Byte) :
    closeAfter (pre ++ openBrace :: (tag ++ closeBrace :: post)) pre.length = some tag.length := by
  rw [closeAfter, drop_append_open, findIdx?_beq_append_cons htag]

/-- A first pair with bytes between is the tag, whatever stands around it (41_hash_tag_extractor.md R81). -/
theorem effectiveKey_of_first_pair (hpre : openBrace ∉ pre) (htag : closeBrace ∉ tag) (hne : tag ≠ [])
    (post : List Byte) :
    effectiveKey (pre ++ openBrace :: (tag ++ closeBrace :: post))
      = { start := pre.length + 1, len := tag.length, tagged := true } :=
  effectiveKey_of_pair (firstOpen_append_open hpre _) (closeAfter_append_close htag post)
    (mt List.length_eq_zero_iff.1 hne)

/-- An empty first pair leaves the whole key (41_hash_tag_extractor.md R82). -/
theorem effectiveKey_of_first_pair_empty (hpre : openBrace ∉ pre) (post : List Byte) :
    (effectiveKey (pre ++ openBrace :: closeBrace :: post)).tagged = false := by
  have hc : closeAfter (pre ++ openBrace :: closeBrace :: post) pre.length = some 0 :=
    closeAfter_append_close (tag := []) List.not_mem_nil post
  rw [effectiveKey_of_empty_pair (firstOpen_append_open hpre _) hc]

end

/-- Settles O38: the braces written out are the least ones; the examples are run. -/
theorem onlyTheFirstPairDecides : Obligations.OnlyTheFirstPairDecides := by
  refine ⟨fun pre tag post hpre htag hne => ?_, fun pre post hpre => ?_, by decide, by decide, by decide⟩
  · have hek := effectiveKey_of_first_pair hpre htag hne post
    rw [openBrace, closeBrace] at hek
    rw [effectiveBytes_eq, hek]
    exact ⟨by simp, rfl⟩
  · have htagged := effectiveKey_of_first_pair_empty hpre post
    exact ⟨effectiveBytes_untagged htagged, htagged⟩

/-! ### The laws -/

/-- TSTATE of a key is TAG exactly when its effective key is a tag (41_hash_tag_extractor.md R84). -/
theorem scanStateOf_eq_tag_iff (k : List Byte) : scanStateOf k = .tag ↔ (effectiveKey k).tagged = true := by
  by_cases h : scanStateOf k = .tag
  · obtain ⟨i, -, hek, -⟩ := effectiveKey_of_tag h
    simp [h, hek]
  · simp [h, effectiveKey_of_not_tag h]

theorem effectiveKey_range_le (k : List Byte) : (effectiveKey k).start + (effectiveKey k).len ≤ k.length := by
  by_cases h : scanStateOf k = .tag
  · obtain ⟨i, -, hek, hle⟩ := effectiveKey_of_tag h
    rwa [hek]
  · simp [effectiveKey_of_not_tag h]

theorem length_effectiveBytes (k : List Byte) : (effectiveBytes k).length = (effectiveKey k).len := by
  have := effectiveKey_range_le k
  rw [effectiveBytes_eq, List.length_take, List.length_drop]
  omega

theorem closeBrace_notMem_candidateTag (k : List Byte) : closeBrace ∉ candidateTag k := by
  unfold candidateTag
  split
  · exact List.not_mem_nil
  · exact fun h => by simpa using List.mem_takeWhile_imp h

/-- A tag is never empty: an empty pair gives NOTAG. -/
theorem candidateTag_ne_nil_of_tag {k : List Byte} (h : scanStateOf k = .tag) : candidateTag k ≠ [] := by
  obtain ⟨i, d, ho, hc⟩ := closeAfter_of_closed (.inl h)
  have hd : d ≠ 0 := by rintro rfl; simp [scanStateOf, ho, hc] at h
  have hlt := closeAfter_lt hc
  rw [candidateTag_closed ho hc, ← List.length_pos_iff, List.length_take]
  omega

theorem effectiveKey_tagged_laws {k : List Byte} (h : (effectiveKey k).tagged = true) :
    1 ≤ (effectiveKey k).len ∧ 1 ≤ (effectiveKey k).start ∧ closeBrace ∉ effectiveBytes k := by
  have ht := (scanStateOf_eq_tag_iff k).2 h
  obtain ⟨i, -, hek, -⟩ := effectiveKey_of_tag ht
  rw [effectiveBytes_tagged h, hek]
  exact ⟨List.length_pos_iff.2 (candidateTag_ne_nil_of_tag ht), Nat.succ_pos i, closeBrace_notMem_candidateTag k⟩

theorem effectiveKey_untagged_range {k : List Byte} (h : (effectiveKey k).tagged = false) :
    (effectiveKey k).start = 0 ∧ (effectiveKey k).len = k.length := by
  have ht : scanStateOf k ≠ .tag := fun ht => by simp [(scanStateOf_eq_tag_iff k).1 ht] at h
  simp [effectiveKey_of_not_tag ht]

theorem effectiveBytes_eq_nil_iff (k : List Byte) : effectiveBytes k = [] ↔ k = [] := by
  rw [← List.length_eq_zero_iff, ← List.length_eq_zero_iff, length_effectiveBytes]
  cases h : (effectiveKey k).tagged with
  | true =>
    obtain ⟨hlen, -, -⟩ := effectiveKey_tagged_laws h
    have := effectiveKey_range_le k
    omega
  | false => rw [(effectiveKey_untagged_range h).2]

/-- Settles O39: each law by whether the key has a tag. -/
theorem effectiveKeyLaws : Obligations.EffectiveKeyLaws := fun k =>
  ⟨effectiveKey_range_le k, effectiveKey_tagged_laws, effectiveKey_untagged_range, effectiveBytes_eq_nil_iff k,
    length_effectiveBytes k, scanStateOf_eq_tag_iff k⟩

end Sys2Proof.Machine
end

section
/-! PROOFS. The slot resolver of 42_slot_resolver.md: the reduction, the Slot function, and when `rnd` is read. -/

namespace Sys2Proof.Machine

/-! ### The reduction -/

theorem slotOfCrc_toNat (c : Word) : (slotOfCrc c).toNat = c.toNat % 16384 := by
  rw [slotOfCrc, BitVec.extractLsb'_toNat, Nat.shiftRight_zero]

theorem slotOfCrc_eq_setWidth (c : Word) : slotOfCrc c = c.setWidth 14 := by
  apply BitVec.eq_of_toNat_eq
  rw [slotOfCrc_toNat, BitVec.toNat_setWidth]

/-- Settles O40: the slots agree exactly when the checksums agree below bit 14, which leaves four of them. -/
theorem reductionKeepsTheLowBits : Obligations.ReductionKeepsTheLowBits := by
  refine ⟨slotOfCrc_toNat, fun c d => ?_⟩
  have hlow : slotOfCrc c = slotOfCrc d ↔ c.toNat % 16384 = d.toNat % 16384 := by
    rw [← BitVec.toNat_inj, slotOfCrc_toNat, slotOfCrc_toNat]
  rw [hlow]
  simp only [← BitVec.toNat_inj, BitVec.toNat_add, BitVec.toNat_ofNat]
  omega

/-! ### The Slot function -/

theorem slotFunction_of_ne_nil {k : List Byte} (hk : k ≠ []) (r : SlotNo) :
    slotFunction k r = (crc16 (effectiveBytes k)).toNat % 16384 := by
  have hlen : (effectiveKey k).len ≠ 0 := by
    rwa [← length_effectiveBytes, Ne, List.length_eq_zero_iff, effectiveBytes_eq_nil_iff]
  rw [slotFunction, if_neg hlen, slotCount]

theorem slotFunction_nil (r : SlotNo) : slotFunction [] r = r.toNat := rfl

theorem slotFunction_lt (k : List Byte) (r : SlotNo) : slotFunction k r < 16384 := by
  by_cases hk : k = []
  · subst hk; exact r.isLt
  · rw [slotFunction_of_ne_nil hk]; exact Nat.mod_lt _ (by decide)

theorem crc16_checkKey : crc16 checkKey = 0x31C3#16 := by
  obtain ⟨-, -, h⟩ := checksumFoldsTheUpdate
  exact h

theorem effectiveBytes_checkKey : effectiveBytes checkKey = checkKey := effectiveBytes_untagged (by decide)

/-- Settles O41: a key that is not empty has an effective key that is not empty, so its slot reads no draw. -/
theorem slotFunctionProperties : Obligations.SlotFunctionProperties := by
  refine ⟨slotFunction_lt, fun k r hk => slotFunction_of_ne_nil hk r, fun a b r r' ha hb heq => ?_, slotFunction_nil,
    fun r => ?_⟩
  · rw [slotFunction_of_ne_nil ha, slotFunction_of_ne_nil hb, heq]
  · rw [slotFunction_of_ne_nil (by decide), effectiveBytes_checkKey, crc16_checkKey]; rfl

/-! ### When `rnd` is read -/

/-- No command but END on an empty key reads the value on `rnd`. -/
theorem exec_block_of_no_draw {i : Instr} {s t v : State} {r : SlotNo} (hi : ¬ (i = .endKey ∧ s.keyLen = 0))
    (h : exec i s = .next t) (h' : exec i { s with rnd := r } = .next v) : t.block = v.block := by
  cases i with
  | nop => cases h; cases h'; rfl
  | start => cases h; cases h'; rfl
  | byte b =>
    rw [exec_byte, scanByte_environment b s r s.draws s.edges] at h'
    cases h; cases h'; rfl
  | endKey =>
    rcases exec_endKey_cases h with ⟨h0, -⟩ | ⟨h1, ht, rfl⟩ | ⟨h1, ht, rfl⟩
    · exact absurd ⟨rfl, h0⟩ hi
    · rw [exec_endKey_tag (by exact h1) (by exact ht)] at h'; cases h'; rfl
    · rw [exec_endKey_whole (by exact h1) (by exact ht)] at h'; cases h'; rfl
  | romrd n => cases h; cases h'; rfl

/-- Settles O19: on an empty key END takes the value; any other word runs a command that does not read it, or sets
ILL. -/
theorem entropyIsReadByEmptyEndOnly : Obligations.EntropyIsReadByEmptyEndOnly := by
  refine ⟨fun r s hk => ⟨_, acceptWord_endKey_empty hk r, rfl⟩, fun w r r' s hw => ?_⟩
  cases hd : decode w with
  | ok i =>
    have hi : ¬ (i = .endKey ∧ s.keyLen = 0) := by
      rintro ⟨rfl, hk⟩
      exact hw ⟨(decode_eq_endKey_iff w).1 hd, hk⟩
    obtain ⟨t, ht⟩ := exec_completes i { s with rnd := r }
    obtain ⟨t', ht'⟩ := exec_completes i { s with rnd := r' }
    exact ⟨t, t', (acceptWord_ok hd r s).trans ht, (acceptWord_ok hd r' s).trans ht',
      exec_block_of_no_draw (s := { s with rnd := r }) hi ht ht', (exec_draws ht).trans (if_neg hi),
      (exec_draws ht').trans (if_neg hi)⟩
  | error x => exact ⟨_, _, acceptWord_error hd r s, acceptWord_error hd r' s, rfl, rfl, rfl⟩

end Sys2Proof.Machine
end

section
/-! PROOFS. A sequence of accepted words whose key commands spell SLOT of a key: it is END of a state that holds the
key, but for ROM_DATA and ILL (42_slot_resolver.md R97, 43_control.md R101). -/

namespace Sys2Proof.Machine

/-! ### What the words of a key write -/

/-- The registers that the words of a key write, with LEN_W: all but ROM_DATA and ILL. -/
def State.keyGroup (s : State) := (s.accumulators, s.results, s.done, s.lenW)

theorem keyGroup_eq_iff {s t : State} :
    t.keyGroup = s.keyGroup ↔
      t.accumulators = s.accumulators ∧ t.results = s.results ∧ t.done = s.done ∧ t.lenW = s.lenW := by
  simp [State.keyGroup]

theorem accumulates_of_keyGroup_eq {s t : State} {k : List Byte} (h : t.keyGroup = s.keyGroup)
    (ha : s.Accumulates k) : t.Accumulates k := by
  obtain ⟨hacc, -, -, hw⟩ := keyGroup_eq_iff.1 h
  exact accumulates_of_accumulators_eq hacc hw ha

theorem describes_of_keyGroup_eq {s t : State} {k : List Byte} (h : t.keyGroup = s.keyGroup)
    (hd : s.Describes k) : t.Describes k := by
  obtain ⟨-, hres, -, hw⟩ := keyGroup_eq_iff.1 h
  obtain ⟨hslot, hcrc, hstart, hlen, htag, hrand⟩ := results_eq_iff.1 hres
  rwa [State.Describes, hslot, hcrc, hstart, hlen, htag, hrand, hw]

/-- NOP, ROMRD and illegal words write none of these registers (43_control.md R101). -/
theorem acceptWord_quiet {w : Word} (hq : quietWord w = true) (r : SlotNo) (s : State) :
    ∃ t, acceptWord w r s = .next t ∧ t.keyGroup = s.keyGroup := by
  cases hd : decode w with
  | ok i =>
    cases i with
    | nop | romrd n => exact ⟨_, acceptWord_ok hd r s, rfl⟩
    | start | byte b | endKey => simp [quietWord, hd] at hq
  | error x => exact ⟨_, acceptWord_error hd r s, rfl⟩

theorem acceptWord_encode (i : Instr) (r : SlotNo) (s : State) :
    acceptWord (encode i) r s = exec i { s with rnd := r } :=
  acceptWord_ok (decode_encode i) r s

/-! ### The run, key word by key word -/

theorem keyCommands_cons_quiet {w : Word} (hq : quietWord w = true) (r : SlotNo) (ws : List (Word × SlotNo)) :
    keyCommands ((w, r) :: ws) = keyCommands ws :=
  List.filter_cons_of_neg (by simp [hq])

theorem keyCommands_cons_key {w : Word} (hq : quietWord w = false) (r : SlotNo) (ws : List (Word × SlotNo)) :
    keyCommands ((w, r) :: ws) = (w, r) :: keyCommands ws :=
  List.filter_cons_of_pos (by simp [hq])

theorem runAccepted_of_no_key_word {ws : List (Word × SlotNo)} (h : keyCommands ws = []) (s : State) :
    ∃ t, runAccepted ws s = .next t ∧ t.keyGroup = s.keyGroup := by
  induction ws generalizing s with
  | nil => exact ⟨s, rfl, rfl⟩
  | cons p ws ih =>
    obtain ⟨w, r⟩ := p
    cases hq : quietWord w with
    | true =>
      obtain ⟨a, ha, hsa⟩ := acceptWord_quiet hq r s
      rw [keyCommands_cons_quiet hq] at h
      obtain ⟨t, ht, hat⟩ := ih h a
      exact ⟨t, (runAccepted_cons ha ws).trans ht, hat.trans hsa⟩
    | false => simp [keyCommands_cons_key hq] at h

/-- The run up to its first key word: that word is accepted in a state with the same registers, and the rest follows. -/
theorem runAccepted_first_key_word {ws : List (Word × SlotNo)} {w : Word} {vs : List Word}
    (h : (keyCommands ws).map Prod.fst = w :: vs) (s : State) :
    ∃ r rest a, keyCommands ws = (w, r) :: keyCommands rest ∧ (keyCommands rest).map Prod.fst = vs
      ∧ a.keyGroup = s.keyGroup
      ∧ ∀ t, acceptWord w r a = .next t → runAccepted ws s = runAccepted rest t := by
  induction ws generalizing s with
  | nil => simp [keyCommands] at h
  | cons p ws ih =>
    obtain ⟨v, r⟩ := p
    cases hq : quietWord v with
    | true =>
      obtain ⟨b, hb, hsb⟩ := acceptWord_quiet hq r s
      rw [keyCommands_cons_quiet hq] at h ⊢
      obtain ⟨r', rest, a, hcons, hrest, hba, hrun⟩ := ih h b
      exact ⟨r', rest, a, hcons, hrest, hba.trans hsb, fun t ht => (runAccepted_cons hb ws).trans (hrun t ht)⟩
    | false =>
      rw [keyCommands_cons_key hq] at h ⊢
      obtain ⟨rfl, hrest⟩ := List.cons.inj h
      exact ⟨r, ws, s, rfl, hrest, rfl, fun t ht => runAccepted_cons ht ws⟩

theorem lastDraw_cons {ps : List (Word × SlotNo)} {r : SlotNo} (h : ps.getLast?.map Prod.snd = some r)
    (p : Word × SlotNo) : (p :: ps).getLast?.map Prod.snd = some r := by
  cases ps with
  | nil => simp at h
  | cons q qs => rwa [List.getLast?_cons_cons]

/-- The rest of a key and its END, from a state that holds the part before. END runs with the value on `rnd` at the last
key word. -/
theorem runAccepted_key_end {ws : List (Word × SlotNo)} {k k' : List Byte} {s : State} (hw : 1 ≤ s.lenW)
    (ha : s.Accumulates k) (h : (keyCommands ws).map Prod.fst = keyWords k' ++ [encode .endKey]) :
    ∃ a u t, a.lenW = s.lenW ∧ a.Accumulates (k ++ k') ∧ (keyCommands ws).getLast?.map Prod.snd = some a.rnd
      ∧ exec .endKey a = .next u ∧ runAccepted ws s = .next t ∧ t.keyGroup = u.keyGroup := by
  induction k' generalizing ws k s with
  | nil =>
    obtain ⟨r, rest, a, hcons, hrest, hsa, hrun⟩ := runAccepted_first_key_word h s
    obtain ⟨-, -, -, hlw⟩ := keyGroup_eq_iff.1 hsa
    obtain ⟨u, hu⟩ := exec_completes .endKey { a with rnd := r }
    have hnil := List.map_eq_nil_iff.1 hrest
    obtain ⟨t, ht, hut⟩ := runAccepted_of_no_key_word hnil u
    refine ⟨{ a with rnd := r }, u, t, hlw, ?_, by rw [hcons, hnil]; rfl, hu,
      (hrun u ((acceptWord_encode _ r a).trans hu)).trans ht, hut⟩
    rw [List.append_nil]
    exact accumulates_of_keyGroup_eq hsa ha
  | cons b k' ih =>
    obtain ⟨r, rest, a, hcons, hrest, hsa, hrun⟩ := runAccepted_first_key_word h s
    obtain ⟨-, -, -, hlw⟩ := keyGroup_eq_iff.1 hsa
    obtain ⟨c, hc⟩ := exec_completes (.byte b) { a with rnd := r }
    have hlc : c.lenW = s.lenW := (exec_lenW hc).trans hlw
    have hac : c.Accumulates (k ++ [b]) :=
      exec_byte_accumulates (s := { a with rnd := r }) (hlw.symm ▸ hw) (accumulates_of_keyGroup_eq hsa ha) hc
    obtain ⟨e, u, t, hle, hae, hlast, hu, ht, htu⟩ := ih (hlc.symm ▸ hw) hac hrest
    rw [List.append_assoc] at hae
    exact ⟨e, u, t, hle.trans hlc, hae, hcons ▸ lastDraw_cons hlast _, hu,
      (hrun c ((acceptWord_encode _ r a).trans hc)).trans ht, htu⟩

/-- A sequence whose key words spell SLOT of a key leaves, from any state, what END leaves of a state that holds the
key, with the value on `rnd` at the last key word. -/
theorem runAccepted_slotWords {ws : List (Word × SlotNo)} {k : List Byte} {s : State} (hw : 1 ≤ s.lenW)
    (h : (keyCommands ws).map Prod.fst = slotWords k) :
    ∃ a u t, a.lenW = s.lenW ∧ a.Accumulates k ∧ (keyCommands ws).getLast?.map Prod.snd = some a.rnd
      ∧ exec .endKey a = .next u ∧ runAccepted ws s = .next t ∧ t.keyGroup = u.keyGroup := by
  obtain ⟨r, rest, b, hcons, hrest, hsb, hrun⟩ := runAccepted_first_key_word h s
  obtain ⟨-, -, -, hlw⟩ := keyGroup_eq_iff.1 hsb
  have hstart := (acceptWord_encode .start r b).trans (exec_start _)
  obtain ⟨a, u, t, hla, haa, hlast, hu, ht, htu⟩ :=
    runAccepted_key_end (s := clearAccumulators { b with rnd := r }) (hlw.symm ▸ hw)
      (clearAccumulators_accumulates _) hrest
  exact ⟨a, u, t, hla.trans hlw, haa, hcons ▸ lastDraw_cons hlast _, hu, (hrun _ hstart).trans ht, htu⟩

/-! ### END reads the accumulators -/

/-- In a build of one width, the key determines the accumulators. -/
theorem accumulators_eq_of_accumulates {s s' : State} {k : List Byte} (hw : 1 ≤ s.lenW) (hlw : s'.lenW = s.lenW)
    (ha : s.Accumulates k) (ha' : s'.Accumulates k) : s'.accumulators = s.accumulators := by
  obtain ⟨⟨hcrc, hlen, hsat⟩, hts, htag, htagLen, hopen⟩ := (accumulates_iff hw).1 ha
  obtain ⟨⟨hcrc', hlen', hsat'⟩, hts', htag', htagLen', hopen'⟩ := (accumulates_iff (hlw.symm ▸ hw)).1 ha'
  rw [hlw] at hlen' hsat' htagLen' hopen'
  exact accumulators_eq_iff.2 ⟨hcrc'.trans hcrc.symm, htag'.trans htag.symm, hts'.trans hts.symm,
    hlen'.trans hlen.symm, hopen'.trans hopen.symm, htagLen'.trans htagLen.symm,
    Bool.eq_iff_iff.2 (hsat'.trans hsat.symm)⟩

/-- On a non-empty key the results of END are a function of the accumulators and the width. -/
theorem exec_endKey_results_eq {s s' t t' : State} (hk : s.keyLen ≠ 0) (hlw : s'.lenW = s.lenW)
    (ha : s'.accumulators = s.accumulators) (h : exec .endKey s = .next t) (h' : exec .endKey s' = .next t') :
    t'.results = t.results := by
  obtain ⟨hcrc, htag, hts, hlen, hopen, htagLen, -⟩ := accumulators_eq_iff.1 ha
  rw [← hlen] at hk
  rcases exec_endKey_cases h with ⟨h0, -⟩ | ⟨-, ht, rfl⟩ | ⟨-, ht, rfl⟩
  · exact absurd (hlen.trans h0) hk
  · rw [exec_endKey_tag hk (hts.trans ht)] at h'
    cases h'
    simp [results_eq_iff, resolveTag, htag, hopen, htagLen, hlw]
  · rw [exec_endKey_whole hk (hts ▸ ht)] at h'
    cases h'
    simp [results_eq_iff, resolveWhole, hcrc, hlen]

/-- Settles O51: each run is END of a state that holds the key, and END's results are those of the accumulators. -/
theorem resultsDependOnTheKeyAlone : Obligations.ResultsDependOnTheKeyAlone := by
  intro s s' k ws ws' hw hlw hk hws hws'
  obtain ⟨a, u, t, hla, haa, -, hu, ht, htu⟩ := runAccepted_slotWords hw hws
  obtain ⟨a', u', t', hla', haa', -, hu', ht', htu'⟩ := runAccepted_slotWords (hlw.symm ▸ hw) hws'
  have hwa : 1 ≤ a.lenW := hla.symm ▸ hw
  have hlaa : a'.lenW = a.lenW := hla'.trans (hlw.trans hla.symm)
  have huu : u'.results = u.results := exec_endKey_results_eq (mt (keyLen_eq_zero_iff hwa haa).1 hk) hlaa
    (accumulators_eq_of_accumulates hwa hlaa haa haa') hu hu'
  obtain ⟨-, hres, hdone, -⟩ := keyGroup_eq_iff.1 htu
  obtain ⟨-, hres', hdone', -⟩ := keyGroup_eq_iff.1 htu'
  obtain ⟨hslot, hcrc, hstart, hlen, htag, hrand⟩ :=
    results_eq_iff.1 (hres.trans (huu.symm.trans hres'.symm))
  have hdd : t.done = t'.done := by rw [hdone, hdone', exec_done hu, exec_done hu']
  exact ⟨t, t', ht, ht', hslot, hcrc, hstart, hlen, htag, hrand, hdd⟩

end Sys2Proof.Machine
end

section
/-! PROOFS. END of 42_slot_resolver.md R94 as equations, with its corner cases and its worked example. -/

namespace Sys2Proof.Machine

/-! ### The three resolutions as updates of the block -/

theorem resolveTag_block (s : State) :
    (resolveTag s).block = { s with slot := s.crcTag.setWidth 14, crcEff := s.crcTag,
                                    effStart := min (s.tagOpen + 1) (2 ^ s.lenW - 1), effLen := s.tagLen,
                                    tagged := true, random := false, done := true }.block := by
  rw [← slotOfCrc_eq_setWidth]; rfl

theorem resolveWhole_block (s : State) :
    (resolveWhole s).block = { s with slot := s.crcKey.setWidth 14, crcEff := s.crcKey, effStart := 0,
                                      effLen := s.keyLen, tagged := false, random := false,
                                      done := true }.block := by
  rw [← slotOfCrc_eq_setWidth]; rfl

/-- Only START makes a key empty again. -/
theorem exec_keyLen_ne_zero {i : Instr} {s t : State} (hi : i ≠ .start) (h : exec i s = .next t)
    (hw : 1 ≤ s.lenW) (hk : s.keyLen ≠ 0) : t.keyLen ≠ 0 := by
  rcases exec_accumulators_cases h with ⟨rfl, -⟩ | ⟨b, -, hb⟩ | heq
  · exact absurd rfl hi
  · cases hb
    exact Nat.ne_of_gt (sat_succ_pos hw)
  · obtain ⟨-, -, -, hlen, -⟩ := accumulators_eq_iff.1 heq
    rwa [hlen]

/-! ### The pseudo-instruction SLOT run alone -/

theorem quietWord_encode (i : Instr) :
    quietWord (encode i) = match i with
      | .nop | .romrd _ => true
      | .start | .byte _ | .endKey => false := by
  cases i <;> simp [quietWord, decode_encode]

theorem quietWord_of_mem_slotWords {k : List Byte} {w : Word} (h : w ∈ slotWords k) : quietWord w = false := by
  rcases List.mem_cons.1 h with rfl | h
  · exact quietWord_encode .start
  rcases List.mem_append.1 h with h | h
  · obtain ⟨b, -, rfl⟩ := List.mem_map.1 h
    exact quietWord_encode (.byte b)
  · rw [List.mem_singleton.1 h]
    exact quietWord_encode .endKey

/-- Every word of SLOT takes part in its key. -/
theorem keyCommands_slotWords (k : List Byte) (r : SlotNo) :
    (keyCommands ((slotWords k).map fun w => (w, r))).map Prod.fst = slotWords k := by
  have hkey : ∀ p ∈ (slotWords k).map fun w => (w, r), (!quietWord p.1) = true := by
    intro p hp
    obtain ⟨w, hw, rfl⟩ := List.mem_map.1 hp
    simp [quietWord_of_mem_slotWords hw]
  rw [keyCommands, List.filter_eq_self.2 hkey, List.map_map]
  exact List.map_id _

/-- SLOT of a key leaves results that describe the key. -/
theorem slotWords_describes {s t : State} {k : List Byte} {r : SlotNo} (hw : 1 ≤ s.lenW)
    (h : runAccepted ((slotWords k).map fun w => (w, r)) s = .next t) :
    t.Describes k ∧ t.done = true ∧ t.lenW = s.lenW := by
  obtain ⟨a, u, v, hla, haa, -, hu, hv, hvu⟩ := runAccepted_slotWords hw (keyCommands_slotWords k r)
  cases hv.symm.trans h
  obtain ⟨-, -, hdone, hlw⟩ := keyGroup_eq_iff.1 hvu
  exact ⟨describes_of_keyGroup_eq hvu (exec_endKey_describes (hla.symm ▸ hw) haa hu), hdone.trans (exec_done hu),
    hlw.trans ((exec_lenW hu).trans hla)⟩

/-- Settles O17: the choice by `exec_endKey_cases`, the second END by `exec_endKey_again`, and the two worked keys by
what the results of SLOT describe. -/
theorem endResolvesTheSlot : Obligations.EndResolvesTheSlot := by
  refine ⟨fun s => ?_, by decide, rfl, fun t h => ?_, fun i s t hi h hw hk => exec_keyLen_ne_zero hi h hw hk,
    fun t h => ?_⟩
  · obtain ⟨t, h⟩ := exec_completes .endKey s
    refine ⟨t, h, fun hk => ?_, fun hk ht => ?_, fun hk ht => ?_, fun hk => exec_endKey_again hk h t.rnd,
      fun hk => ?_⟩
    · rw [exec_endKey_empty hk] at h; cases h; rfl
    · rw [exec_endKey_tag hk ht] at h; cases h; exact resolveTag_block s
    · rw [exec_endKey_whole hk ht] at h; cases h; exact resolveWhole_block s
    · rw [exec_endKey_empty hk] at h; cases h
      exact ⟨_, exec_endKey_empty (s := resolveEmpty s) hk, rfl, rfl⟩
  · obtain ⟨⟨-, hdesc⟩, -⟩ := slotWords_describes (by decide) h
    obtain ⟨hrand, -, -, hslot, -⟩ := hdesc (by decide)
    rw [effectiveBytes_untagged (by decide), crc16_zero_cons] at hslot
    exact ⟨hslot, hrand⟩
  · obtain ⟨⟨-, hdesc⟩, hdone, hlw⟩ := slotWords_describes (by decide) h
    obtain ⟨hrand, htag, hcrc, hslot, hrange⟩ := hdesc (by decide)
    obtain ⟨hstart, hlen⟩ := hrange (by rw [hlw]; decide)
    rw [effectiveBytes_checkKey, crc16_checkKey] at hcrc hslot
    exact ⟨hcrc, hslot, htag, hrand, hstart, hlen, hdone⟩

end Sys2Proof.Machine
end

section
/-! PROOFS. The control commands of 43_control.md: NOP and START, the sequence of a key (R101), and a key continued
after END (R102). -/

namespace Sys2Proof.Machine

/-! ### NOP and START -/

/-- Settles O13: NOP's meaning, and by the fields of a word that `OP = 0x0` leaves one legal word. -/
theorem nopWritesNothing : Obligations.NopWritesNothing := by
  refine ⟨exec_nop, by decide, fun w hop hw => ?_, fun w hd => (encode_of_decode hd).symm⟩
  rcases decode_cases w with ⟨hd, -⟩ | ⟨hd, -⟩ | ⟨hd, -⟩ | ⟨i, -, -, hrsv, -, himm⟩
  case inr.inr.inr =>
    have hzero : w.toNat = 0 := by omega
    exact absurd (BitVec.eq_of_toNat_eq hzero) hw
  all_goals exact (legalWord_eq_false_iff w).2 ⟨_, hd⟩

theorem crc16_fooKey : crc16 fooKey = 0xAF96#16 := by decide +kernel

/-- Settles O14: each clause is START's meaning, and the slot of the worked example is what SLOT "foo" describes. -/
theorem startClearsTheAccumulators : Obligations.StartClearsTheAccumulators := by
  refine ⟨exec_start, by decide, fun s t h => ?_, fun n => rfl, fun t u h hu => ?_⟩
  · cases h
    exact ⟨rfl, rfl⟩
  · obtain ⟨⟨-, hdesc⟩, -⟩ := slotWords_describes (by decide) h
    obtain ⟨-, -, -, hslot, -⟩ := hdesc (by decide)
    rw [effectiveBytes_untagged (by decide), crc16_fooKey] at hslot
    cases hu
    exact ⟨rfl, rfl, rfl, hslot⟩

/-! ### ROM_DATA and ILL along a sequence -/

theorem runAccepted_cons_cases {w : Word} {r : SlotNo} {ws : List (Word × SlotNo)} {s t : State}
    (h : runAccepted ((w, r) :: ws) s = .next t) :
    ∃ u, acceptWord w r s = .next u ∧ runAccepted ws u = .next t := by
  cases hu : acceptWord w r s with
  | next u => exact ⟨u, rfl, (runAccepted_cons hu ws).symm.trans h⟩
  | fault f => simp [runAccepted, hu] at h
  | refused x => simp [runAccepted, hu] at h

theorem runAccepted_append {us : List (Word × SlotNo)} {s t : State} (h : runAccepted us s = .next t)
    (vs : List (Word × SlotNo)) : runAccepted (us ++ vs) s = runAccepted vs t := by
  induction us generalizing s with
  | nil => cases h; rfl
  | cons p us ih =>
    obtain ⟨u, hu, ht⟩ := runAccepted_cons_cases h
    exact (runAccepted_cons hu (us ++ vs)).trans (ih ht)

/-- ROM_DATA after one word: written by ROMRD alone (10_state.md R39). -/
theorem acceptWord_romData {w : Word} {r : SlotNo} {s t : State} (h : acceptWord w r s = .next t) :
    t.romData = romDataAfter [(w, r)] s.romData := by
  rcases acceptWord_cases h with ⟨i, hd, hi⟩ | ⟨x, hd, rfl⟩
  · cases i with
    | romrd n => cases hi; simp [romDataAfter, hd, romIndex]
    | nop | start | byte b | endKey => simpa [romDataAfter, hd] using exec_romData (by simp) hi
  · simp [romDataAfter, hd]

/-- ILL after one word: set by an illegal word alone (10_state.md R38). -/
theorem acceptWord_ill {w : Word} {r : SlotNo} {s t : State} (h : acceptWord w r s = .next t) :
    t.ill = (s.ill || !legalWord w) := by
  rcases acceptWord_cases h with ⟨i, hd, hi⟩ | ⟨x, hd, rfl⟩
  · simp [legalWord, hd, exec_ill hi]
  · simp [legalWord, hd]

theorem runAccepted_romData {ws : List (Word × SlotNo)} {s t : State} (h : runAccepted ws s = .next t) :
    t.romData = romDataAfter ws s.romData := by
  induction ws generalizing s with
  | nil => cases h; rfl
  | cons p ws ih =>
    obtain ⟨u, hu, ht⟩ := runAccepted_cons_cases h
    rw [ih ht, acceptWord_romData hu]
    rfl

theorem runAccepted_ill {ws : List (Word × SlotNo)} {s t : State} (h : runAccepted ws s = .next t) :
    t.ill = (s.ill || anyIllegal ws) := by
  induction ws generalizing s with
  | nil => cases h; exact (Bool.or_false _).symm
  | cons p ws ih =>
    obtain ⟨u, hu, ht⟩ := runAccepted_cons_cases h
    rw [ih ht, acceptWord_ill hu, Bool.or_assoc]
    rfl

/-! ### START, the bytes of a key, END -/

theorem exec_endKey_accumulators {s t : State} (h : exec .endKey s = .next t) : t.accumulators = s.accumulators :=
  exec_accumulators (by simp) (by simp) h

/-- END does not write the accumulators, so it leaves the key as it is (43_control.md R102). -/
theorem exec_endKey_accumulates {s t : State} {k : List Byte} (ha : s.Accumulates k)
    (h : exec .endKey s = .next t) : t.Accumulates k :=
  accumulates_of_accumulators_eq (exec_endKey_accumulators h) (exec_lenW h) ha

theorem exec_endKey_slot_of_empty {s t : State} (hk : s.keyLen = 0) (h : exec .endKey s = .next t) :
    t.slot = s.rnd := by
  rw [exec_endKey_empty hk] at h
  cases h
  rfl

/-- What a sequence whose key words spell SLOT of a key leaves: registers that hold and describe the key, and on the
empty key the value on `rnd` at its END. -/
theorem runAccepted_slotWords_holds {ws : List (Word × SlotNo)} {k : List Byte} {s : State} (hw : 1 ≤ s.lenW)
    (h : (keyCommands ws).map Prod.fst = slotWords k) :
    ∃ t, runAccepted ws s = .next t ∧ t.lenW = s.lenW ∧ t.Accumulates k ∧ t.Describes k ∧ t.done = true
      ∧ (k = [] → (keyCommands ws).getLast?.map Prod.snd = some t.slot) := by
  obtain ⟨a, u, t, hla, haa, hlast, hu, ht, htu⟩ := runAccepted_slotWords hw h
  obtain ⟨-, hres, hdone, hlw⟩ := keyGroup_eq_iff.1 htu
  obtain ⟨hslot, -⟩ := results_eq_iff.1 hres
  have hwa : 1 ≤ a.lenW := hla.symm ▸ hw
  refine ⟨t, ht, hlw.trans ((exec_lenW hu).trans hla),
    accumulates_of_keyGroup_eq htu (exec_endKey_accumulates haa hu),
    describes_of_keyGroup_eq htu (exec_endKey_describes hwa haa hu), hdone.trans (exec_done hu), fun hk => ?_⟩
  rw [hlast, hslot, exec_endKey_slot_of_empty ((keyLen_eq_zero_iff hwa haa).2 hk) hu]

/-- A key of at most SATMAX bytes has its exact length in KEY_LEN, and LEN_SAT is 0. -/
theorem keyLen_lenSat_of_fits {s : State} {k : List Byte} (ha : s.Accumulates k) (hfit : k.length ≤ satMax s.lenW) :
    s.keyLen = k.length ∧ s.lenSat = false := by
  obtain ⟨-, -, -, -, -, hlen, hsat, -⟩ := ha
  exact ⟨hlen.trans (Nat.min_eq_left hfit), Bool.eq_false_iff.2 (mt hsat.1 hfit.not_gt)⟩

/-- SLOT is the reference function's slot, when the results describe the key and, on the empty key, SLOT is the draw. -/
theorem slot_toNat_of_describes {s : State} {k : List Byte} {r : SlotNo} (hd : s.Describes k)
    (hr : k = [] → s.slot = r) : s.slot.toNat = slotFunction k r := by
  obtain ⟨-, hdesc⟩ := hd
  by_cases hk : k = []
  · rw [hr hk, hk, slotFunction_nil]
  · obtain ⟨-, -, -, hslot, -⟩ := hdesc hk
    rw [hslot, slotOfCrc_toNat, slotFunction_of_ne_nil hk]

/-- Settles O50: the registers of the key by what the sequence holds and describes, ROM_DATA and ILL by their own
lemmas along the sequence. -/
theorem keySequenceComputesSlot : Obligations.KeySequenceComputesSlot := by
  intro s k r ws hw hws hr
  obtain ⟨t, ht, hlw, ha, hd, hdone, hdraw⟩ := runAccepted_slotWords_holds hw hws
  have hslot (hk : k = []) : t.slot = r := Option.some.inj ((hdraw hk).symm.trans hr)
  have ⟨hcrc, _⟩ := ha
  have ⟨hempty, hfull⟩ := hd
  refine ⟨t, ht, hdone, hcrc, slot_toNat_of_describes hd hslot, fun hk => ?_, fun hk => ?_, fun hk hfit => ?_,
    runAccepted_romData ht, runAccepted_ill ht⟩
  · exact ⟨hslot hk, hempty hk⟩
  · obtain ⟨hrand, htag, hcrcEff, hs, -⟩ := hfull hk
    exact ⟨htag, hrand, hcrcEff, hs⟩
  · rw [← hlw] at hfit
    obtain ⟨-, -, -, -, hrange⟩ := hfull hk
    obtain ⟨hstart, hlen⟩ := hrange hfit
    exact ⟨hstart, hlen, keyLen_lenSat_of_fits ha hfit⟩

/-! ### A key continued after END -/

theorem not_quiet_of_words {ws : List (Word × SlotNo)} {vs : List Word} {k : List Byte}
    (h : ws.map Prod.fst = vs) (hsub : vs ⊆ slotWords k) : ∀ p ∈ ws, quietWord p.1 = false := fun _ hp =>
  quietWord_of_mem_slotWords (hsub (h ▸ List.mem_map_of_mem hp))

theorem keyCommands_of_not_quiet {ws : List (Word × SlotNo)} (hq : ∀ p ∈ ws, quietWord p.1 = false) :
    keyCommands ws = ws :=
  List.filter_eq_self.2 fun p hp => by simp [hq p hp]

/-- START, BYTE and END write neither ROM_DATA nor ILL. -/
theorem acceptWord_of_key_word {w : Word} {r : SlotNo} {s t : State} (hq : quietWord w = false)
    (h : acceptWord w r s = .next t) : t.romData = s.romData ∧ t.ill = s.ill := by
  rcases acceptWord_cases h with ⟨i, hd, hi⟩ | ⟨x, hd, -⟩
  · exact ⟨exec_romData (s := { s with rnd := r }) (by rintro n rfl; simp [quietWord, hd] at hq) hi,
      exec_ill (s := { s with rnd := r }) hi⟩
  · simp [quietWord, hd] at hq

theorem runAccepted_of_key_words {ws : List (Word × SlotNo)} {s t : State} (hq : ∀ p ∈ ws, quietWord p.1 = false)
    (h : runAccepted ws s = .next t) : t.romData = s.romData ∧ t.ill = s.ill := by
  induction ws generalizing s with
  | nil => cases h; exact ⟨rfl, rfl⟩
  | cons p ws ih =>
    obtain ⟨hp, hws⟩ := List.forall_mem_cons.1 hq
    obtain ⟨u, hu, ht⟩ := runAccepted_cons_cases h
    obtain ⟨hrom, hill⟩ := acceptWord_of_key_word hp hu
    obtain ⟨hrom', hill'⟩ := ih hws ht
    exact ⟨hrom'.trans hrom, hill'.trans hill⟩

/-- The registers a key writes, ROM_DATA and ILL are the whole block. -/
theorem block_eq_of_keyGroup_eq {s t : State} (h : t.keyGroup = s.keyGroup) (hrom : t.romData = s.romData)
    (hill : t.ill = s.ill) : t.block = s.block := by
  cases s; cases t
  simp_all [State.block, State.keyGroup, State.accumulators, State.results]

/-- END of two states that hold one non-empty key, in a build of one width, leaves the same registers. -/
theorem exec_endKey_keyGroup_eq {s s' t t' : State} {k : List Byte} (hk : k ≠ []) (hw : 1 ≤ s.lenW)
    (hlw : s'.lenW = s.lenW) (ha : s.Accumulates k) (ha' : s'.Accumulates k) (h : exec .endKey s = .next t)
    (h' : exec .endKey s' = .next t') : t'.keyGroup = t.keyGroup := by
  have hacc : s'.accumulators = s.accumulators := accumulators_eq_of_accumulates hw hlw ha ha'
  exact keyGroup_eq_iff.2 ⟨(exec_endKey_accumulators h').trans (hacc.trans (exec_endKey_accumulators h).symm),
    exec_endKey_results_eq (mt (keyLen_eq_zero_iff hw ha).1 hk) hlw hacc h h',
    (exec_done h').trans (exec_done h).symm, (exec_lenW h').trans (hlw.trans (exec_lenW h).symm)⟩

/-- Settles O52: after the first END the registers still hold `k1`, so that each run ends in END of a state that holds
`k1 ++ k2`, and no word of either writes ROM_DATA or ILL. -/
theorem endDoesNotEndTheKey : Obligations.EndDoesNotEndTheKey := by
  intro s k1 k2 us vs ws hw hk hus hvs hws
  rw [show (0x3000#16 : Word) = encode .endKey by decide] at hvs
  have hqu := not_quiet_of_words hus (List.Subset.refl _)
  have hqv := not_quiet_of_words hvs (List.subset_cons_self (encode .start) _)
  have hqw := not_quiet_of_words hws (List.Subset.refl _)
  obtain ⟨t1, ht1, hl1, ha1, hd1, -⟩ :=
    runAccepted_slotWords_holds (ws := us) hw (by rw [keyCommands_of_not_quiet hqu, hus])
  obtain ⟨a, x, t2, hla, haa, -, hx, ht2, hx2⟩ :=
    runAccepted_key_end (ws := vs) (hl1.symm ▸ hw) ha1 (by rw [keyCommands_of_not_quiet hqv, hvs])
  obtain ⟨b, y, u, hlb, hab, -, hy, hu, hyu⟩ :=
    runAccepted_slotWords (ws := ws) hw (by rw [keyCommands_of_not_quiet hqw, hws])
  have hxy : x.keyGroup = y.keyGroup :=
    exec_endKey_keyGroup_eq hk (hlb.symm ▸ hw) (hla.trans (hl1.trans hlb.symm)) hab haa hy hx
  obtain ⟨hrom1, hill1⟩ := runAccepted_of_key_words hqu ht1
  obtain ⟨hrom2, hill2⟩ := runAccepted_of_key_words hqv ht2
  obtain ⟨hromu, hillu⟩ := runAccepted_of_key_words hqw hu
  exact ⟨t1, t2, u, ht1, hd1, (runAccepted_append ht1 vs).trans ht2, hu,
    block_eq_of_keyGroup_eq (hx2.trans (hxy.trans hyu.symm)) (hrom2.trans (hrom1.trans hromu.symm))
      (hill2.trans (hill1.trans hillu.symm))⟩

end Sys2Proof.Machine
end

section
/-! PROOFS. The exception of 60_exceptions.md: the one thing each edge does, and what an illegal word leaves as it
was. -/

namespace Sys2Proof.Machine

/-! ### One edge, in the order of 60_exceptions.md R110 -/

theorem step_of_reset {s : State} {e : Edge} {rest : List Edge} (hs : s.edges = e :: rest) (hr : e.rstN = false) :
    step s = .next (resetRegisters { s with edges := rest }) := by
  rw [step_cons hs, clockEdge_of_reset hr]

theorem step_of_not_accepts {s : State} {e : Edge} {rest : List Edge} (hs : s.edges = e :: rest)
    (hr : e.rstN = true) (ha : e.accepts = false) : step s = .next { s with edges := rest } := by
  rw [step_cons hs, clockEdge_of_not_accepts hr ha]

/-- Reset gives every register of the block the value it has in the reset state of the build (70_reset_and_hazards.md
R120). -/
theorem resetRegisters_block (s : State) : (resetRegisters s).block = (State.resetBuild s.lenW).block := rfl

theorem not_accepts_of_stall {e : Edge} (h : e.cmdValid = false ∨ e.ready = false) : e.accepts = false := by
  rw [Bool.eq_false_iff, ne_eq, accepts_iff]
  rintro ⟨-, hvalid, hready⟩
  rcases h with h | h
  · simp [hvalid] at h
  · simp [hready] at h

/-- Settles O6: the equation of the step at each kind of edge; what the step does besides, on the list of edges and the
value of the entropy port, is not in the block. -/
theorem edgeDoesExactlyOneThing : Obligations.EdgeDoesExactlyOneThing := by
  intro s e rest hs
  refine ⟨fun hr => ?_, fun hr hvalid hready => ?_, fun hr hstall => ?_⟩
  · exact ⟨_, step_of_reset hs hr, resetRegisters_block { s with edges := rest }⟩
  · have ha : e.accepts = true := (accepts_iff e).2 ⟨hr, hvalid, hready⟩
    exact ⟨fun i hd => step_of_accepts hs ha hd,
      fun x hd => ⟨_, step_of_illegal hs ha ((legalWord_eq_false_iff e.cmd).2 ⟨x, hd⟩), rfl⟩⟩
  · exact ⟨_, step_of_not_accepts hs hr (not_accepts_of_stall hstall), rfl⟩

/-! ### An illegal word leaves the commands after it as they were -/

/-- The extractor's transition neither reads nor writes ILL. -/
theorem scanByte_raiseIllegalCommand (b : Byte) (s : State) :
    scanByte b (raiseIllegalCommand s) = raiseIllegalCommand (scanByte b s) := by
  rw [scanByte_eq, scanByte_eq]; rfl

/-- No command reads or writes ILL, so raising the exception commutes with every command (60_exceptions.md R107). -/
theorem exec_raiseIllegalCommand {i : Instr} {s t : State} (h : exec i s = .next t) :
    exec i (raiseIllegalCommand s) = .next (raiseIllegalCommand t) := by
  cases i with
  | nop => cases h; rfl
  | start => cases h; rfl
  | byte b =>
    cases h
    rw [exec_byte, scanByte_raiseIllegalCommand]
    rfl
  | endKey =>
    rcases exec_endKey_cases h with ⟨hk, rfl⟩ | ⟨hk, ht, rfl⟩ | ⟨hk, ht, rfl⟩
    · exact exec_endKey_empty hk
    · exact exec_endKey_tag hk ht
    · exact exec_endKey_whole hk ht
  | romrd n => cases h; rfl

/-- Only the word of END takes a value of the entropy port, and it is legal (10_state.md R43). -/
theorem rndTake_of_illegal {e : Edge} (hw : legalWord e.cmd = false) (s : State) : rndTake s e = false := by
  obtain ⟨x, hd⟩ := (legalWord_eq_false_iff e.cmd).1 hw
  rw [Bool.eq_false_iff, ne_eq, rndTake_iff, hd]
  rintro ⟨-, hend, -⟩
  cases hend

/-- Settles O21: the step raises the exception, and raising it commutes with every command. -/
theorem illegalCommandOnlySetsIll : Obligations.IllegalCommandOnlySetsIll := by
  refine ⟨fun s e rest hs ha hw => ?_, fun i s => ?_, by decide, by decide⟩
  · exact ⟨rndTake_of_illegal hw s, _, step_of_illegal hs ha hw, rfl⟩
  · obtain ⟨t, ht⟩ := exec_completes i s
    exact ⟨t, ht, exec_raiseIllegalCommand ht⟩

end Sys2Proof.Machine
end

section
/-! PROOFS. Reset, 70_reset_and_hazards.md section 1: what an edge with `rst_n = 0` does to the registers and the
handshake outputs, and how the reset state relates to START. -/

namespace Sys2Proof.Machine

/-! ### The outputs at a reset edge, and after it -/

theorem cmdReady_of_reset {e : Edge} (hr : e.rstN = false) : e.cmdReady = false := by
  simp [Edge.cmdReady, hr]

/-- An edge that accepts no word takes no value of the entropy port (10_state.md R43). -/
theorem rndTake_of_not_accepts {e : Edge} (ha : e.accepts = false) (s : State) : rndTake s e = false := by
  simp [rndTake, ha]

/-- STATUS is assembled from registers of the block alone (10_state.md R33). -/
theorem status_block (s : State) : status s.block = status s := rfl

theorem status_resetRegisters (s : State) : status (resetRegisters s) = 0x00#8 := by
  rw [← status_block, resetRegisters_block, status_block, status_resetBuild]

/-- One reset edge brings the block of any state to the reset state of its build (70_reset_and_hazards.md R120). -/
theorem step_of_reset_block {s : State} {e : Edge} {rest : List Edge} (hs : s.edges = e :: rest)
    (hr : e.rstN = false) : ∃ t, step s = .next t ∧ t.block = (State.resetBuild s.lenW).block :=
  ⟨_, step_of_reset hs hr, resetRegisters_block { s with edges := rest }⟩

/-- A reset edge after a reset changes nothing further in the block. -/
theorem step_of_reset_after_reset {s : State} {f : Edge} {more : List Edge} (hs : (resetRegisters s).edges = f :: more)
    (hr : f.rstN = false) : ∃ u, step (resetRegisters s) = .next u ∧ u.block = (resetRegisters s).block := by
  rw [resetRegisters_block, ← resetRegisters_lenW s]
  exact step_of_reset_block hs hr

/-- Settles O10: the step at a reset edge is `resetRegisters`, which writes every register; a second such edge finds
the block of the reset state and leaves it. -/
theorem resetEdgeClearsEveryRegister : Obligations.ResetEdgeClearsEveryRegister := by
  intro s e rest hs hr
  have ha : e.accepts = false := accepts_of_reset hr
  refine ⟨ha, cmdReady_of_reset hr, rndTake_of_not_accepts ha s, _, step_of_reset hs hr, ?_⟩
  have hstatus := status_resetRegisters { s with edges := rest }
  exact ⟨rfl, rfl, rfl, rfl, rfl, rfl, rfl, rfl, rfl, rfl, rfl, rfl, rfl, rfl, rfl, rfl, hstatus,
    fun _ _ hf hfr => step_of_reset_after_reset hf hfr⟩

/-! ### The reset state and START -/

/-- The reset state holds in its accumulators and DONE what START writes there (70_reset_and_hazards.md R121). -/
theorem clearAccumulators_resetBuild (n : Nat) : clearAccumulators (State.resetBuild n) = State.resetBuild n := rfl

/-- Reset is START's clearing, and the clearing of what START keeps (70_reset_and_hazards.md R121). -/
theorem resetRegisters_eq_clearAccumulators (s : State) :
    resetRegisters s
      = { clearAccumulators s with slot := 0, crcEff := 0, effStart := 0, effLen := 0, tagged := false,
                                   random := false, romData := 0, ill := false } := rfl

/-- Settles O12: the two equations on `clearAccumulators`, which is what START does. -/
theorem resetStateIsAStartState : Obligations.ResetStateIsAStartState := by
  refine ⟨fun n => ?_, fun s t h => ?_⟩
  · rw [exec_start, clearAccumulators_resetBuild]
  · rw [exec_start] at h
    cases h
    exact congrArg State.block (resetRegisters_eq_clearAccumulators s)

end Sys2Proof.Machine
end

section
/-! PROOFS. The invariant of the register set (10_state.md sections 2 and 3, 41_hash_tag_extractor.md sections 2 and 3):
reset meets it, and every command and every edge keeps it. -/

namespace Sys2Proof.Machine

/-! ### The registers the invariant reads -/

theorem scanOk_of_accumulators_eq {s t : State} (ha : t.accumulators = s.accumulators) (hw : t.lenW = s.lenW)
    (h : s.ScanOk) : t.ScanOk := by
  obtain ⟨hck, hct, hts, hkl, hto, htl, hls⟩ := accumulators_eq_iff.1 ha
  rwa [State.ScanOk, hck, hct, hts, hkl, hto, htl, hls, hw]

theorem resultsOk_of_results_eq {s t : State} (hr : t.results = s.results) (h : s.ResultsOk) : t.ResultsOk := by
  obtain ⟨hslot, hcrc, hstart, hlen, htag, hrand⟩ := results_eq_iff.1 hr
  rwa [State.ResultsOk, hslot, hcrc, hstart, hlen, htag, hrand]

/-- The invariant reads all registers but ROM_DATA and ILL, and nothing of the environment. -/
theorem inv_of_keyGroup_eq {s t : State} (h : t.keyGroup = s.keyGroup) (hi : s.Inv) : t.Inv := by
  obtain ⟨hwidths, hscan, hresults, hdoneOk⟩ := hi
  obtain ⟨hacc, hres, hdone, hw⟩ := keyGroup_eq_iff.1 h
  obtain ⟨hck, hct, hts, hkl, hto, htl, -⟩ := accumulators_eq_iff.1 hacc
  obtain ⟨-, hcrc, hstart, hlen, htag, hrand⟩ := results_eq_iff.1 hres
  refine ⟨?_, scanOk_of_accumulators_eq hacc hw hscan, resultsOk_of_results_eq hres hresults, ?_⟩
  · rwa [State.WidthsOk, hw, hkl, hto, htl, hstart, hlen]
  · rwa [State.DoneOk, hdone, hkl, hrand, htag, hts, hcrc, hct, hstart, hw, hto, hlen, htl, hck]

/-! ### Reset and START -/

theorem scanOk_of_clear {s : State} (h : s.accumulators = (State.resetBuild s.lenW).accumulators) : s.ScanOk := by
  refine scanOk_of_accumulators_eq h rfl ?_
  simp [State.ScanOk, State.resetBuild]

theorem resetBuild_inv {n : Nat} (hn : 1 ≤ n) : (State.resetBuild n).Inv := by
  have hslot : 0x0000#14 = slotOfCrc 0x0000#16 := by decide
  refine ⟨⟨hn, Nat.zero_le _, Nat.zero_le _, Nat.zero_le _, Nat.zero_le _, Nat.zero_le _⟩, scanOk_of_clear rfl, ?_,
    fun hdone => by cases hdone⟩
  simp [State.ResultsOk, State.resetBuild, ← hslot]

/-- Reset reaches the invariant from any registers (70_reset_and_hazards.md R120). -/
theorem resetRegisters_inv {s : State} (hw : 1 ≤ s.lenW) : (resetRegisters s).Inv :=
  inv_of_keyGroup_eq (s := State.resetBuild s.lenW) rfl (resetBuild_inv hw)

/-- START clears the accumulators and DONE, and keeps the results. -/
theorem clearAccumulators_inv {s : State} (hi : s.Inv) : (clearAccumulators s).Inv := by
  obtain ⟨⟨hw, -, -, -, hstart, hlen⟩, -, hresults, -⟩ := hi
  exact ⟨⟨hw, Nat.zero_le _, Nat.zero_le _, Nat.zero_le _, hstart, hlen⟩, scanOk_of_clear rfl, hresults,
    fun hdone => by cases hdone⟩

/-! ### BYTE -/

theorem exec_byte_keyLen {s t : State} {b : Byte} (h : exec (.byte b) s = .next t) :
    t.keyLen = sat s.lenW (s.keyLen + 1) := by
  cases h; rfl

theorem exec_byte_widthsOk {s t : State} {b : Byte} (hw : s.WidthsOk) (h : exec (.byte b) s = .next t) :
    t.WidthsOk := by
  obtain ⟨-, htag', hopen'⟩ := exec_byte_counters hw h
  obtain ⟨hpos, -, -, htag, hstart, hlen⟩ := hw
  obtain ⟨-, -, hstart', hlen', -⟩ := results_eq_iff.1 (exec_results (by simp) h)
  rw [State.WidthsOk, exec_lenW h, exec_byte_keyLen h, htag', hstart', hlen']
  refine ⟨hpos, sat_le _ _, hopen', ?_, hstart, hlen⟩
  split_ifs <;> omega

/-- KEY_LEN and LEN_SAT after a byte: KEY_LEN grows, exactly so while LEN_SAT is 0, and LEN_SAT marks SATMAX
(41_hash_tag_extractor.md R87). -/
theorem exec_byte_keyLen_lenSat {s t : State} {b : Byte} (hw : s.WidthsOk)
    (hs : s.lenSat = true → s.keyLen = satMax s.lenW) (h : exec (.byte b) s = .next t) :
    1 ≤ t.keyLen ∧ s.keyLen ≤ t.keyLen ∧ (t.lenSat = true → t.keyLen = satMax t.lenW)
      ∧ (t.lenSat = false → s.lenSat = false ∧ t.keyLen = s.keyLen + 1) := by
  obtain ⟨hkey, -, -⟩ := exec_byte_counters hw h
  obtain ⟨hpos, hle, -⟩ := hw
  have hmax := satMax_pos hpos
  rw [Bool.eq_false_iff, ne_eq, exec_byte_lenSat h, exec_lenW h, hkey]
  refine ⟨by split_ifs <;> omega, by split_ifs <;> omega, fun hl => if_pos (hl.elim hs id), fun hl => ?_⟩
  obtain ⟨hl1, hl2⟩ := not_or.1 hl
  exact ⟨by simpa using hl1, if_neg hl2⟩

/-- The accumulators after a byte agree again, row by row of the extractor's table (41_hash_tag_extractor.md R85). -/
theorem exec_byte_scanOk {s t : State} {b : Byte} (hw : s.WidthsOk) (hs : s.ScanOk)
    (h : exec (.byte b) s = .next t) : t.ScanOk := by
  obtain ⟨hscan, -, htag, hnoTag, hempty, -, hopenLe, hlenLe, hsat, hopened, hclosed⟩ := hs
  obtain ⟨hpos, hgrow, hsat', hexact⟩ := exec_byte_keyLen_lenSat hw hsat h
  obtain ⟨hts, hcrc, hopen, hlen⟩ := exec_byte_extractor h
  obtain ⟨hwidth, -⟩ := hw
  have hcount : 1 ≤ sat s.lenW (s.tagLen + 1) ∧ sat s.lenW (s.tagLen + 1) ≤ s.tagLen + 1
      ∧ sat s.lenW (s.tagLen + 1) ≤ t.keyLen :=
    ⟨sat_succ_pos hwidth, Nat.min_le_left _ _, exec_byte_keyLen h ▸ sat_mono (by omega)⟩
  rcases scanByte_cases b s with ⟨ht, -, heq⟩ | ⟨ht, -, heq⟩ | ⟨ht, -, hl, heq⟩ | ⟨ht, -, hl, heq⟩ |
    ⟨ht, -, heq⟩ | ⟨ht, heq⟩ | ⟨ht, heq⟩ <;> rw [heq] at hts hcrc hopen hlen
  case inl => -- the open brace: TAG_OPEN is the old KEY_LEN, and SCAN has counted nothing
    grind
  case inr.inr.inr.inr.inl => -- a candidate byte: TAG_LEN grows with KEY_LEN, or saturates below it
    grind
  all_goals -- TSTATE moves at most, and KEY_LEN grows
    grind

/-- BYTE keeps the results and clears DONE. -/
theorem exec_byte_inv {s t : State} {b : Byte} (hi : s.Inv) (h : exec (.byte b) s = .next t) : t.Inv := by
  obtain ⟨hwidths, hscan, hresults, -⟩ := hi
  have hdone : t.done = false := exec_done h
  refine ⟨exec_byte_widthsOk hwidths h, exec_byte_scanOk hwidths hscan h,
    resultsOk_of_results_eq (exec_results (by simp) h) hresults, fun ht => ?_⟩
  simp [hdone] at ht

/-! ### END -/

/-- END writes the results from the accumulators, which it keeps; a tag is not empty, and starts behind its brace. -/
theorem exec_endKey_inv {s t : State} (hi : s.Inv) (h : exec .endKey s = .next t) : t.Inv := by
  obtain ⟨⟨hw, hkey, hopen, htagLen, -⟩, hscan, -⟩ := hi
  have hscan' := scanOk_of_accumulators_eq (exec_endKey_accumulators h) (exec_lenW h) hscan
  obtain ⟨-, -, htag, -⟩ := hscan
  rcases exec_endKey_cases h with ⟨hk, rfl⟩ | ⟨hk, ht, rfl⟩ | ⟨hk, ht, rfl⟩
  · refine ⟨⟨hw, hkey, hopen, htagLen, Nat.zero_le _, Nat.zero_le _⟩, hscan', ?_, ?_⟩
    · simp [State.ResultsOk, resolveEmpty, crcInit]
    · simp [State.DoneOk, resolveEmpty, hk]
  · refine ⟨⟨hw, hkey, hopen, htagLen, sat_le _ _, htagLen⟩, hscan', ?_, ?_⟩
    · simp [State.ResultsOk, resolveTag, htag ht, sat_succ_pos hw]
    · simp [State.DoneOk, resolveTag, hk, ht]
  · refine ⟨⟨hw, hkey, hopen, htagLen, Nat.zero_le _, hkey⟩, hscan', ?_, ?_⟩
    · simp [State.ResultsOk, resolveWhole]
    · simp [State.DoneOk, resolveWhole, hk, ht]

/-! ### Every command and every edge -/

theorem exec_inv {i : Instr} {s t : State} (hi : s.Inv) (h : exec i s = .next t) : t.Inv := by
  cases i with
  | nop | romrd n => cases h; exact inv_of_keyGroup_eq (s := s) rfl hi
  | start => cases h; exact clearAccumulators_inv hi
  | byte b => exact exec_byte_inv hi h
  | endKey => exact exec_endKey_inv hi h

/-- Settles O42: by what the edge does; an edge that runs no command and is no reset writes nothing the invariant
reads. -/
theorem stepKeepsTheInvariant : Obligations.StepKeepsTheInvariant := by
  intro s t hi h
  rcases step_cases h with ⟨-, rfl⟩ | ⟨e, rest, hs, -⟩
  · exact hi
  have ⟨⟨hw, _⟩, _⟩ := hi
  rcases step_cons_cases hs h with ⟨-, rfl⟩ | ⟨-, -, i, -, hexec⟩ | ⟨-, -, x, -, rfl⟩ | ⟨-, -, rfl⟩
  · exact resetRegisters_inv hw
  · exact exec_inv (s := { s with edges := rest, rnd := e.rnd }) hi hexec
  · exact inv_of_keyGroup_eq (s := s) rfl hi
  · exact inv_of_keyGroup_eq (s := s) rfl hi

/-- Settles O43: the registers after reset, at any legal width and at the default. -/
theorem resetMeetsTheInvariant : Obligations.ResetMeetsTheInvariant :=
  ⟨fun _ hn => resetBuild_inv hn, resetBuild_inv (by decide)⟩

/-- Settles O44: the step at a reset edge is `resetRegisters`, which clears the accumulators and DONE as well. -/
theorem resetEdgeEstablishesTheInvariant : Obligations.ResetEdgeEstablishesTheInvariant :=
  fun _ _ _ hw hs hr => ⟨_, step_of_reset hs hr, resetRegisters_inv hw, hw, resetRegisters_accumulates _,
    fun hdone => by cases hdone⟩

/-- Settles O46, by `exec_lenW` and `step_lenW`. -/
theorem buildWidthIsFixed : Obligations.BuildWidthIsFixed :=
  ⟨fun _ _ _ => exec_lenW, fun _ _ => step_lenW, fun _ => rfl, rfl⟩

end Sys2Proof.Machine
end

section
/-! PROOFS. The step as the model's form of the ports has it: one edge off the list, the presented word first, and no
run that stops. The draw of END on an empty key. -/

namespace Sys2Proof.Machine

/-! ### One listed edge -/

/-- Settles O5: such an edge accepts its word. -/
theorem stepRunsDecodedInstruction : Obligations.StepRunsDecodedInstruction :=
  fun _ e _ _ hs hr hvalid hready hd => step_of_accepts hs ((accepts_iff e).2 ⟨hr, hvalid, hready⟩) hd

theorem step_of_no_edge {s : State} (hs : s.edges = []) : step s = .next s := by
  simp [step, nextEdge, hs]

/-- Settles O7, by `step_of_no_edge` and `step_edges`. -/
theorem stepTakesOneEdge : Obligations.StepTakesOneEdge :=
  ⟨fun _ => step_of_no_edge, fun _ _ _ _ => step_edges⟩

/-- Settles O8: the presented word is that of the first listed edge, which accepts it. -/
theorem presentedWordRunsNext : Obligations.PresentedWordRunsNext := by
  intro s nbits w
  have hs : (s.withFetchWord nbits w).edges = presentingEdge (BitVec.ofNat 16 w) s.rnd :: s.edges :=
    presentWord_edges s _
  rw [step_cons hs, clockEdge_of_accepts rfl]
  rfl

/-! ### Nothing stops the block -/

theorem acceptWord_completes (w : Word) (r : SlotNo) (s : State) : ∃ t, acceptWord w r s = .next t := by
  cases hd : decode w with
  | ok i => rw [acceptWord_ok hd]; exact exec_completes i _
  | error x => exact ⟨_, acceptWord_error hd r s⟩

theorem clockEdge_completes (e : Edge) (s : State) : ∃ t, clockEdge e s = .next t := by
  cases hr : e.rstN with
  | false => exact ⟨_, clockEdge_of_reset hr s⟩
  | true =>
    cases ha : e.accepts with
    | false => exact ⟨s, clockEdge_of_not_accepts hr ha s⟩
    | true => rw [clockEdge_of_accepts ha]; exact acceptWord_completes e.cmd e.rnd s

theorem step_completes (s : State) : ∃ t, step s = .next t := by
  cases hs : s.edges with
  | nil => exact ⟨s, step_of_no_edge hs⟩
  | cons e rest => rw [step_cons hs]; exact clockEdge_completes e _

theorem runAccepted_completes (ws : List (Word × SlotNo)) (s : State) : ∃ t, runAccepted ws s = .next t := by
  induction ws generalizing s with
  | nil => exact ⟨s, rfl⟩
  | cons p ws ih =>
    obtain ⟨u, hu⟩ := acceptWord_completes p.1 p.2 s
    obtain ⟨t, ht⟩ := ih u
    exact ⟨t, (runAccepted_cons hu ws).trans ht⟩

/-- Settles O9, for a command, an edge and a sequence. -/
theorem everyCommandAndEdgeCompletes : Obligations.EveryCommandAndEdgeCompletes :=
  ⟨exec_completes, step_completes, runAccepted_completes⟩

/-! ### The draw of the empty key -/

/-- Only a draw moves the entropy port to its next value (42_slot_resolver.md R92, R93). -/
theorem exec_rnd {i : Instr} {s t : State} (h : exec i s = .next t) :
    t.rnd = if i = .endKey ∧ s.keyLen = 0 then Config.freshRnd (s.draws + 1) else s.rnd := by
  rcases exec_cases h with ⟨rfl, rfl⟩ | ⟨rfl, rfl⟩ | ⟨b, rfl, rfl⟩ | ⟨rfl, ⟨hk, rfl⟩ | ⟨hk, -, rfl⟩ | ⟨hk, -, rfl⟩⟩ |
    ⟨n, rfl, rfl⟩ <;> simp [resolveEmpty, resolveTag, resolveWhole, *]

/-- A command that is not END on an empty key leaves the count of draws and the port as they are. -/
theorem exec_keeps_draw {i : Instr} {s t : State} (hi : ¬ (i = .endKey ∧ s.keyLen = 0)) (h : exec i s = .next t) :
    t.draws = s.draws ∧ t.rnd = s.rnd := by
  rw [exec_draws h, exec_rnd h, if_neg hi, if_neg hi]
  exact ⟨rfl, rfl⟩

/-- Settles O18: END on an empty key is `resolveEmpty`; every other case keeps the draw. -/
theorem emptyEndConsumesOneDraw : Obligations.EmptyEndConsumesOneDraw :=
  ⟨fun _ hk => ⟨_, exec_endKey_empty hk, rfl, rfl, rfl⟩, fun _ _ hk h => exec_keeps_draw (fun hc => hk hc.2) h,
    fun _ _ _ hi h => exec_keeps_draw (fun hc => hi hc.1) h⟩

end Sys2Proof.Machine
end

section
/-! PROOFS. The assembler and the disassembler of 30_encoding.md section 5: what the pseudo-instructions expand to, and
that the disassembler's text is read back as the word it was printed from. -/

namespace Sys2Proof.Machine

/-! ### Known words -/

/-- Settles O4: the legal words are the commands' own, the illegal ones are run. -/
theorem knownWordsDecode : Obligations.KnownWordsDecode :=
  ⟨decode_encode .nop, decode_encode .start, decode_encode (.byte 0x00#8), decode_encode (.byte 0xFF#8),
    decode_encode (.byte 0x7B#8), decode_encode .endKey, decode_encode (.romrd 0x01#8), decode_encode (.romrd 0xFF#8),
    by decide, by decide, by decide, by decide, by decide, by decide⟩

/-! ### What the disassembler prints -/

theorem disassemble_encode (i : Instr) :
    disassemble (encode i) = match i with
      | .nop => "NOP".toList
      | .start => "START".toList
      | .byte b => "BYTE ".toList ++ hexByte b
      | .endKey => "END".toList
      | .romrd n => "ROMRD ".toList ++ hexByte n := by
  unfold disassemble
  rw [decode_encode]
  cases i <;> rfl

theorem disassemble_of_error {w : Word} {x : IllegalWord} (h : decode w = .error x) :
    disassemble w = ".word ".toList ++ hexWord w ++ " ; illegal".toList := by
  simp [disassemble, h]

/-! ### Reading back hexadecimal digits -/

/-- The number that hexadecimal digits spell after `acc`, the highest digit first. -/
def hexValue (acc : Nat) (ds : List Nat) : Nat := ds.foldl (fun a d => a * 16 + d) acc

theorem hexByte_eq (b : Byte) : hexByte b = '0' :: 'x' :: [b.toNat / 16, b.toNat % 16].map hexChar := rfl

theorem hexWord_eq (w : Word) :
    hexWord w = '0' :: 'x' ::
      [w.toNat / 4096, w.toNat / 256 % 16, w.toNat / 16 % 16, w.toNat % 16].map hexChar := rfl

theorem hexDigit_hexChar {d : Nat} (h : d < 16) : hexDigit (hexChar d) = some d := by
  revert d; decide

/-- Printed digits are read back up to the first character that is no digit. -/
theorem readDigits_map_hexChar {ds : List Nat} {rest : List Char} (hds : ∀ d ∈ ds, d < 16)
    (hrest : ∀ c ∈ rest.head?, hexDigit c = none) (acc : Nat) :
    readDigits 16 hexDigit acc (ds.map hexChar ++ rest) = (hexValue acc ds, rest) := by
  induction ds generalizing acc with
  | nil =>
    cases rest with
    | nil => rfl
    | cons c cs => simp [readDigits, hexValue, hrest c rfl]
  | cons d ds ih =>
    obtain ⟨hd, hds'⟩ := List.forall_mem_cons.1 hds
    simp only [List.map_cons, List.cons_append, readDigits, hexDigit_hexChar hd]
    exact ih hds' (acc * 16 + d)

/-- An operand printed as `0x` and its digits, with nothing but a comment behind it, is the number of the line. -/
theorem operandLine_hex (make : Nat → SourceLine) {d : Nat} {ds : List Nat} {rest : List Char}
    (hds : ∀ n ∈ d :: ds, n < 16) (hrest : ∀ c ∈ rest.head?, hexDigit c = none) (hend : atLineEnd rest = true) :
    operandLine make (' ' :: '0' :: 'x' :: ((d :: ds).map hexChar ++ rest)) = some (make (hexValue 0 (d :: ds))) := by
  have hnumber : readNumber 16 hexDigit ((d :: ds).map hexChar ++ rest) = some (hexValue 0 (d :: ds), rest) := by
    rw [← readDigits_map_hexChar hds hrest]
    simp [readNumber, hexDigit_hexChar (hds d (by simp))]
  have hread : readOperand (skipBlanks (' ' :: '0' :: 'x' :: ((d :: ds).map hexChar ++ rest)))
      = some (hexValue 0 (d :: ds), rest) := hnumber
  simp only [operandLine, hread, hend, if_true]

theorem operandLine_hexByte (make : Nat → SourceLine) (b : Byte) :
    operandLine make (' ' :: hexByte b) = some (make b.toNat) := by
  have hb := b.isLt
  have hvalue : hexValue 0 [b.toNat / 16, b.toNat % 16] = b.toNat := by simp [hexValue]; omega
  have hline := operandLine_hex make (d := b.toNat / 16) (ds := [b.toNat % 16]) (rest := [])
    (by simp; omega) (by simp) rfl
  rwa [List.append_nil, ← hexByte_eq, hvalue] at hline

theorem operandLine_hexWord (make : Nat → SourceLine) (w : Word) :
    operandLine make (' ' :: (hexWord w ++ " ; illegal".toList)) = some (make w.toNat) := by
  have hw := w.isLt
  have hvalue : hexValue 0 [w.toNat / 4096, w.toNat / 256 % 16, w.toNat / 16 % 16, w.toNat % 16] = w.toNat := by
    simp [hexValue]; omega
  have hline := operandLine_hex make (d := w.toNat / 4096)
    (ds := [w.toNat / 256 % 16, w.toNat / 16 % 16, w.toNat % 16]) (rest := " ; illegal".toList)
    (by simp; omega) (fun c hc => by cases hc; decide) rfl
  rwa [hvalue] at hline

/-! ### A printed line is its word -/

theorem assembleText_of_parseLine {cs : List Char} {l : SourceLine} (h : parseLine cs = some l) :
    assembleText cs = assembleLine l := by
  simp [assembleText, h]

theorem parseLine_byte (cs : List Char) : parseLine ("BYTE ".toList ++ cs) = operandLine .byte (' ' :: cs) := rfl

theorem parseLine_romrd (cs : List Char) : parseLine ("ROMRD ".toList ++ cs) = operandLine .romrd (' ' :: cs) := rfl

theorem parseLine_word (cs : List Char) : parseLine (".word ".toList ++ cs) = operandLine .word (' ' :: cs) := rfl

theorem assembleLine_byte_toNat (b : Byte) : assembleLine (.byte b.toNat) = .ok [encode (.byte b)] := by
  have hb : (SourceLine.byte b.toNat).wellFormed = true := decide_eq_true (Nat.le_of_lt_succ b.isLt)
  rw [assembleLine_of_wellFormed hb, expandLine, BitVec.ofNat_toNat, BitVec.setWidth_eq]

theorem assembleLine_romrd_toNat (i : Byte) : assembleLine (.romrd i.toNat) = .ok [encode (.romrd i)] := by
  have hi : (SourceLine.romrd i.toNat).wellFormed = true := decide_eq_true (Nat.le_of_lt_succ i.isLt)
  rw [assembleLine_of_wellFormed hi, expandLine, BitVec.ofNat_toNat, BitVec.setWidth_eq]

theorem assembleLine_word_toNat (w : Word) : assembleLine (.word w.toNat) = .ok [w] := by
  have hw : (SourceLine.word w.toNat).wellFormed = true := decide_eq_true (Nat.le_of_lt_succ w.isLt)
  rw [assembleLine_of_wellFormed hw, expandLine, BitVec.ofNat_toNat, BitVec.setWidth_eq]

theorem assembleText_disassemble_encode (i : Instr) : assembleText (disassemble (encode i)) = .ok [encode i] := by
  rw [disassemble_encode]
  cases i with
  | nop | start | endKey => decide
  | byte b =>
    rw [assembleText_of_parseLine ((parseLine_byte _).trans (operandLine_hexByte .byte b)), assembleLine_byte_toNat]
  | romrd n =>
    rw [assembleText_of_parseLine ((parseLine_romrd _).trans (operandLine_hexByte .romrd n)),
      assembleLine_romrd_toNat]

/-- Settles O54: a legal word is the word of its command, an illegal one is printed as `.word`. -/
theorem disassemblyAssemblesBack : Obligations.DisassemblyAssemblesBack := by
  intro w
  cases hd : decode w with
  | ok i =>
    rw [← encode_of_decode hd]
    exact assembleText_disassemble_encode i
  | error x =>
    rw [disassemble_of_error hd, List.append_assoc,
      assembleText_of_parseLine ((parseLine_word _).trans (operandLine_hexWord .word w)), assembleLine_word_toNat]

/-! ### The pseudo-instructions -/

theorem keyWords_eq (s : List Byte) : keyWords s = s.map (fun b => 0x2000#16 ||| b.setWidth 16) :=
  List.map_congr_left fun b _ => encode_byte b

theorem legalWord_encode (i : Instr) : legalWord (encode i) = true := by
  simp [legalWord, decode_encode]

/-- Every line but `.word` is made of commands. -/
theorem exists_encode_of_mem_expandLine {l : SourceLine} (hl : ∀ n, l ≠ .word n) {w : Word} (hw : w ∈ expandLine l) :
    ∃ i, w = encode i := by
  have hkey {s : List Byte} (h : w ∈ keyWords s) : ∃ i, w = encode i := by
    obtain ⟨b, -, rfl⟩ := List.mem_map.1 h
    exact ⟨.byte b, rfl⟩
  cases l with
  | blank => simp [expandLine] at hw
  | nop | start | byte n | endKey | romrd n => exact ⟨_, List.mem_singleton.1 hw⟩
  | key s => exact hkey hw
  | slot s =>
    rcases List.mem_cons.1 hw with rfl | hw
    · exact ⟨.start, rfl⟩
    rcases List.mem_append.1 hw with hw | hw
    · exact hkey hw
    · exact ⟨.endKey, List.mem_singleton.1 hw⟩
  | word n => exact absurd rfl (hl n)

theorem legalWord_of_mem_assembleLine {l : SourceLine} {ws : List Word} (hl : ∀ n, l ≠ .word n)
    (h : assembleLine l = .ok ws) {w : Word} (hw : w ∈ ws) : legalWord w = true := by
  have hwf : l.wellFormed = true := by
    by_contra hn
    rw [assembleLine_of_not_wellFormed hn] at h
    cases h
  rw [assembleLine_of_wellFormed hwf] at h
  cases h
  obtain ⟨i, rfl⟩ := exists_encode_of_mem_expandLine hl hw
  exact legalWord_encode i

/-- Settles O55: the expansions by `keyWords_eq`, the printed text by `disassemble_encode` and `disassemble_of_error`,
and the examples by running the assembler. -/
theorem pseudoInstructionsExpand : Obligations.PseudoInstructionsExpand := by
  refine ⟨fun s => ?_, rfl, fun s => ?_, assembleLine_word_toNat, disassemble_encode .nop, disassemble_encode .start,
    disassemble_encode .endKey, fun b => ?_, fun i => ?_, fun w hw => ?_,
    fun l ws hl h w hw => legalWord_of_mem_assembleLine hl h hw, by decide, by decide, by decide⟩
  · rw [← keyWords_eq]; rfl
  · rw [← keyWords_eq]; rfl
  · rw [← encode_byte]; exact disassemble_encode (.byte b)
  · rw [← encode_romrd]; exact disassemble_encode (.romrd i)
  · obtain ⟨x, hd⟩ := (legalWord_eq_false_iff w).1 hw
    exact disassemble_of_error hd

end Sys2Proof.Machine
end
